-- ==== Sys2Proof/Word.lean ====
section
/-! DEFINITION. The word types of the block: bytes and addresses of the register bus (20_memory.md R50), and the
168-bit command frame (30_encoding.md R70). Bits are numbered from 0, the least significant (00_scope.md R6). -/

namespace Sys2Proof

/-- A byte of the register bus (`DATA_W` = 8, 00_scope.md R5). -/
abbrev Byte := BitVec 8

/-- An address of the register bus (`ADDR_W` = 8, 00_scope.md R5). -/
abbrev Addr := BitVec 8

/-- A command frame: the operand words `E:D:C:B:A` above the opcode byte (30_encoding.md R70). -/
abbrev Frame := BitVec 168

end Sys2Proof
end

