-- ==== Sys2Proof/Config.lean ====
section
/-! DEFINITION. What an implementation or the environment fixes, and the free values (00_scope.md R5). A constant with no
body is free: no proof can see what it is, so a claim holds whatever it is. -/

namespace Sys2Proof

/-- A bus transaction as the block issues it: `readByte(address)` or `writeByte(address, byte)` (20_memory.md R50). -/
inductive BusRequest where
  | read (addr : Addr)
  | write (addr : Addr) (byte : Byte)
  deriving DecidableEq, Repr, Inhabited

/-- The device's answer to one transaction (20_memory.md R61): it goes through or it is an IOError. A read that goes
through returns `byte`; a write that goes through returns only ok, and its `byte` is read by nobody. -/
inductive BusAnswer where
  | ack (byte : Byte)
  | ioError
  deriving DecidableEq, Repr, Inhabited

namespace Config

/-- FREE VALUE (DESIGN CHOICE of form, notes/assumptions/1.md; safe): the device's answer to the `n`-th transaction
(20_memory.md R61: "The device's answers are draws"). -/
opaque deviceAnswer : Nat → BusRequest → BusAnswer

/-- FREE VALUE (notes/assumptions/2.md; safe): one less than the open parameter `POLL_BUDGET` that a machine is built
with (00_scope.md R5: an integer in 1..2^32−1). -/
opaque pollBudgetLessOne : Fin 4294967295

/-- `POLL_BUDGET` of the machine that `State.reset` describes: some integer in 1..2^32−1 (00_scope.md R5, D23). -/
def pollBudget : BitVec 32 := BitVec.ofNat 32 (pollBudgetLessOne.val + 1)

/-- FREE VALUE (DESIGN CHOICE of form, notes/assumptions/11.md; safe): the byte the state port shows for a shadow whose
valid bit is 0 (10_state.md R41 gives the valid bit and no byte), at a moment counted in transactions. -/
opaque unknownShadowByte : Nat → Addr → Byte

/-- `CLK_SRC_BIT`, the CR2 bit that selects the clock source (00_scope.md R5, D14; notes/assumptions/15.md). -/
def clkSrcBit : Nat := 3

/-- The 24-bit ceiling of a frequency code (00_scope.md R5 `CODE_W`, 40_encoder_and_program.md R101). -/
def codeMax : Nat := 0xFFFFFF

end Config

end Sys2Proof
end

