-- ==== Sys2Proof/Machine/State.lean ====
section
/-! DEFINITION. The state of the machine as plain data: the block's registers, exactly the record of 10_state.md R20, and
beside them the model's own fields for the block's ports, its environment and its one open parameter (INVENTORY.md, State).
State.reset is the machine right after reset (10_state.md R40). -/

namespace Sys2Proof.Machine

/-- The controller state `ctl` (10_state.md R21). Values 6 and 7 never occur, so they are not representable
(notes/assumptions/10.md). -/
inductive Ctl where
  | idle
  | standby
  | initialized
  | sweeping
  | complete
  | faulted
  deriving DecidableEq, Repr

/-- The sub-phase `sub` of Sweeping (10_state.md R22): for observation only. -/
inductive Sub where
  | none
  | started
  | repeating
  | advancing
  deriving DecidableEq, Repr

/-- The kind of the recorded fault, `fault_code` (10_state.md R35). Codes 4 to 7 never occur. -/
inductive FaultCode where
  | none
  | bus
  | unexpectedStatus
  | sweepTimeout
  deriving DecidableEq, Repr

/-- `rsp_status` (30_encoding.md R80). The values 6 and 7 are never produced. -/
inductive Status where
  | ok
  | ioError
  | frequencyOutOfRange
  | sweepTimeout
  | configInvalid
  | illegalCommand
  deriving DecidableEq, Repr

/-- The response of one command (30_encoding.md R79). Fields a command does not set are 0. -/
structure Response where
  status : Status
  ctl : Ctl
  sampleValid : Bool := false
  pointValid : Bool := false
  info : BitVec 16 := 0
  code : BitVec 24 := 0
  re : BitVec 16 := 0
  im : BitVec 16 := 0
  ptIdx : BitVec 9 := 0
  ptFreq : BitVec 41 := 0
  ptSumRe : BitVec 32 := 0
  ptSumIm : BitVec 32 := 0
  ptCount : BitVec 16 := 0
  deriving DecidableEq, Repr

/-- One entry of a command's transaction trace (00_scope.md R9): a read with the byte it returned, or none where it
failed; a write with its byte and whether it succeeded. -/
inductive BusEvent where
  | read (addr : Addr) (byte : Option Byte)
  | write (addr : Addr) (byte : Byte) (ok : Bool)
  deriving DecidableEq, Repr

/-- What the host can send (20_memory.md R62): a command frame on the command port, or a reset (70_reset_and_hazards.md
R230). -/
inductive HostInput where
  | command (frame : Frame)
  | reset
  deriving DecidableEq, Repr

/-- The block state: exactly the record of 10_state.md R20, and no other architectural state (R39). -/
structure Block where
  /-- `ctl`, u3 (R21). -/
  ctl : Ctl
  /-- `sub`, u2 (R22). -/
  sub : Sub
  /-- `configured`, u1 (R23). -/
  configured : Bool
  /-- `p_start`, u32 (R24). -/
  pStart : BitVec 32
  /-- `p_inc`, u32 (R24). -/
  pInc : BitVec 32
  /-- `p_clk`, u32 (R24). -/
  pClk : BitVec 32
  /-- `p_ninc`, u9 (R25). -/
  pNinc : BitVec 9
  /-- `p_settle`, u10 (R25). -/
  pSettle : BitVec 10
  /-- `p_mult`, u2 (R25). -/
  pMult : BitVec 2
  /-- `p_rep`, u16 (R25). -/
  pRep : BitVec 16
  /-- `p_start_code`, u24 (R26). -/
  pStartCode : BitVec 24
  /-- `p_inc_code`, u24 (R26). -/
  pIncCode : BitVec 24
  /-- `idx`, u9 (R27). -/
  idx : BitVec 9
  /-- `rc`, u16 (R28). -/
  rc : BitVec 16
  /-- `sum_re`, s32 (R29). -/
  sumRe : BitVec 32
  /-- `sum_im`, s32 (R29). -/
  sumIm : BitVec 32
  /-- `fail_polls`, u32 (R30). -/
  failPolls : BitVec 32
  /-- `fault_code`, u3 (R35). -/
  faultCode : FaultCode
  /-- `fault_info`, u16 (R35). -/
  faultInfo : BitVec 16
  /-- `cr1_shadow`, a byte or unknown (R36). -/
  cr1Shadow : Option Byte
  /-- `cr2_shadow`, a byte or unknown (R36). -/
  cr2Shadow : Option Byte
  deriving DecidableEq, Repr

/-- The block after reset (10_state.md R40). -/
def Block.reset : Block where
  ctl := .idle
  sub := .none
  configured := false
  pStart := 0
  pInc := 0
  pClk := 0
  pNinc := 0
  pSettle := 0
  pMult := 0
  pRep := 0
  pStartCode := 0
  pIncCode := 0
  idx := 0
  rc := 0
  sumRe := 0
  sumIm := 0
  failPolls := 0
  faultCode := .none
  faultInfo := 0
  cr1Shadow := none
  cr2Shadow := none

/-- The machine: the block, and the model's own fields around it. -/
structure State where
  /-- The block state (10_state.md R20). -/
  blk : Block
  /-- MODEL's own: what the host sends next, the command port (20_memory.md R62; notes/assumptions/3.md). -/
  inputs : List HostInput
  /-- MODEL's own: the device's answers already fixed, the bus oracle (20_memory.md R61; notes/assumptions/1.md). -/
  answers : List BusAnswer
  /-- MODEL's own: how many transactions have been issued; indexes the free answers (notes/assumptions/1.md). -/
  draws : Nat
  /-- MODEL's own: the parameter `POLL_BUDGET` of this machine (00_scope.md R5; notes/assumptions/2.md). Never written. -/
  pollBudget : BitVec 32
  /-- MODEL's own: the transactions of the step just taken (00_scope.md R9; notes/assumptions/4.md). -/
  trace : List BusEvent
  /-- MODEL's own: the response of the step just taken (10_state.md R34; notes/assumptions/4.md). -/
  response : Option Response
  deriving DecidableEq, Repr

/-- The machine right after reset (10_state.md R40): the block at its reset values, no transaction performed, nothing
sent by the host yet, every device answer still free, the poll budget a free value. -/
def State.reset : State where
  blk := Block.reset
  inputs := []
  answers := []
  draws := 0
  pollBudget := Config.pollBudget
  trace := []
  response := none

/-- Reasons for which a step stops with a fault. There is none: what the spec calls a fault is an answer of the block,
after which it goes on (60_exceptions.md R207; notes/assumptions/9.md). -/
inductive Fault
  deriving DecidableEq, Repr

/-- Reasons for which an instruction is refused. -/
inductive Refusal where
  /-- Raised by `exec` alone, for an instruction that has no meaning in the model. No arm raises it: every command has
  its meaning. Safe: the model stops where the hardware would go on. -/
  | notModelled (mnemonic : String)
  deriving DecidableEq, Repr

end Sys2Proof.Machine
end

