-- ==== Sys2Proof/Machine/Operands.lean ====
section
/-! DEFINITION. Addresses, byte order and bit fields: the device address map (20_memory.md R51), the assembly and the
splitting of multi-byte registers (R53), the control-register patterns and masks (30_encoding.md R81 to R83), and the
codes and layout of the response and of the error information (30_encoding.md R79, R80; 60_exceptions.md R200). -/

namespace Sys2Proof.Machine

/-- Control Register 1 (20_memory.md R51). -/
def cr1Addr : Addr := 0x80

/-- Control Register 2 (20_memory.md R51). -/
def cr2Addr : Addr := 0x81

/-- The Status Register (20_memory.md R51). -/
def statusAddr : Addr := 0x8F

/-- The first, most significant byte of Real Data (20_memory.md R51, R53). -/
def realHighAddr : Addr := 0x94

/-- The second byte of Real Data. -/
def realLowAddr : Addr := 0x95

/-- The first, most significant byte of Imaginary Data (20_memory.md R51, R53). -/
def imagHighAddr : Addr := 0x96

/-- The second byte of Imaginary Data. -/
def imagLowAddr : Addr := 0x97

/-- The six device modes the block writes into CR1 (41_control_register.md R120). -/
inductive Mode where
  | init
  | start
  | increment
  | repeat
  | powerDown
  | standby
  deriving DecidableEq, Repr

/-- The mode's fixed byte (30_encoding.md R82). Start is 0x20 (90_conflicts.md C2). -/
def modePattern : Mode → Byte
  | .init => 0x10
  | .start => 0x20
  | .increment => 0x30
  | .repeat => 0x40
  | .powerDown => 0xA0
  | .standby => 0xB0

/-- The byte `setMode` writes for the byte `v` it read: the low 3 bits kept, the pattern ORed in (41_control_register.md
R121; every mode alike, R128 and 90_conflicts.md C3). -/
def modeByte (m : Mode) (v : Byte) : Byte := (v &&& 0x07) ||| modePattern m

/-- The byte SET_RANGE writes: CR1[2:1] replaced (41_control_register.md R124). -/
def rangeByte (rangeCode : BitVec 2) (v : Byte) : Byte := (v &&& 0xF9) ||| (rangeCode.setWidth 8 <<< 1)

/-- The byte SET_GAIN writes: CR1[0] replaced (41_control_register.md R125). -/
def gainByte (gainCode : BitVec 1) (v : Byte) : Byte := (v &&& 0xFE) ||| gainCode.setWidth 8

/-- The byte SET_CLOCK_SOURCE writes: CR2[CLK_SRC_BIT] replaced (41_control_register.md R126). -/
def clockByte (clkSrc : BitVec 1) (v : Byte) : Byte :=
  (v &&& ~~~(1#8 <<< Config.clkSrcBit)) ||| (clkSrc.setWidth 8 <<< Config.clkSrcBit)

/-- Two bytes as one 16-bit value, the high byte first (30_encoding.md R85, 20_memory.md R53). -/
def word16 (high low : Byte) : BitVec 16 := high ++ low

/-- `sext32` of an s16 sample (00_scope.md R8, 43_measurement_poller.md R162). -/
def sext32 (sample : BitVec 16) : BitVec 32 := sample.signExtend 32

/-- The bytes of a frequency code, most significant first: byte1, byte2, byte3 (40_encoder_and_program.md R102). -/
def codeBytes (code : BitVec 24) : Byte × Byte × Byte :=
  (code.extractLsb' 16 8, code.extractLsb' 8 8, code.extractLsb' 0 8)

/-- `ninc_word`: the increment count in 16 bits (30_encoding.md R87). -/
def nincWord (ninc : BitVec 9) : BitVec 16 := ninc.setWidth 16

/-- `settle_word`: four zero bits, the multiplier code, the settling count (30_encoding.md R88, `SETTLE_LAYOUT` of
00_scope.md R5; notes/assumptions/15.md). -/
def settleWord (settle : BitVec 10) (mult : BitVec 2) : BitVec 16 := 0#4 ++ mult ++ settle

/-- The bytes CONFIGURE writes, in order, each with its address (40_encoder_and_program.md R107: ascending addresses, big
endian). -/
def programWrites (startCode incCode : BitVec 24) (ninc : BitVec 9) (settle : BitVec 10) (mult : BitVec 2) :
    List (Addr × Byte) :=
  [ (0x82, (codeBytes startCode).1), (0x83, (codeBytes startCode).2.1), (0x84, (codeBytes startCode).2.2),
    (0x85, (codeBytes incCode).1), (0x86, (codeBytes incCode).2.1), (0x87, (codeBytes incCode).2.2),
    (0x88, (nincWord ninc).extractLsb' 8 8), (0x89, (nincWord ninc).extractLsb' 0 8),
    (0x8A, (settleWord settle mult).extractLsb' 8 8), (0x8B, (settleWord settle mult).extractLsb' 0 8) ]

/-- The encoding of `ctl` (10_state.md R21). -/
def ctlCode : Ctl → BitVec 3
  | .idle => 0
  | .standby => 1
  | .initialized => 2
  | .sweeping => 3
  | .complete => 4
  | .faulted => 5

/-- The encoding of `sub` (10_state.md R22). -/
def subCode : Sub → BitVec 2
  | .none => 0
  | .started => 1
  | .repeating => 2
  | .advancing => 3

/-- The encoding of `fault_code` (10_state.md R35). -/
def faultCodeBits : FaultCode → BitVec 3
  | .none => 0
  | .bus => 1
  | .unexpectedStatus => 2
  | .sweepTimeout => 3

/-- The encoding of `rsp_status` (30_encoding.md R80). -/
def statusCode : Status → BitVec 3
  | .ok => 0
  | .ioError => 1
  | .frequencyOutOfRange => 2
  | .sweepTimeout => 3
  | .configInvalid => 4
  | .illegalCommand => 5

/-- The packed 210-bit response (30_encoding.md R79). -/
def packResponse (r : Response) : BitVec 210 :=
  r.ptCount ++ r.ptSumIm ++ r.ptSumRe ++ r.ptFreq ++ r.ptIdx ++ r.im ++ r.re ++ r.code ++ r.info ++
    BitVec.ofBool r.pointValid ++ BitVec.ofBool r.sampleValid ++ ctlCode r.ctl ++ statusCode r.status

/-- The information of a failed transaction, `dir << 8 | addr`, dir 0 for a read and 1 for a write (60_exceptions.md
R201). -/
def busInfo (isWrite : Bool) (addr : Addr) : BitVec 16 :=
  ((BitVec.ofBool isWrite).setWidth 16 <<< 8) ||| addr.setWidth 16

/-- The information of an unexpected status, `0x0200 | status` (60_exceptions.md R202). -/
def statusInfo (st : Byte) : BitVec 16 := 0x0200 ||| st.setWidth 16

/-- The information of an IllegalCommand, `{ctl[2:0], op[7:0]}` (60_exceptions.md R206). -/
def illegalInfo (ctl : Ctl) (op : BitVec 8) : BitVec 16 := (ctlCode ctl ++ op).setWidth 16

end Sys2Proof.Machine
end

