-- ==== Sys2Proof/Machine/Flags.lean ====
section
/-! DEFINITION. The block has no condition codes (10_state.md R33). What a processor would keep in flags are here the two
device status bits POLL reads afresh (30_encoding.md R84), and the decoded view of the control-register shadows
(10_state.md R36). -/

namespace Sys2Proof.Machine

/-- `valid` = status bit 1: valid data ready (43_measurement_poller.md R161). -/
def statusValid (st : Byte) : Bool := st.getLsbD 1

/-- `done` = status bit 2: sweep complete (43_measurement_poller.md R161). -/
def statusDone (st : Byte) : Bool := st.getLsbD 2

/-- The device mode that CR1[7:4] holds; none for the values that decode as "other" (30_encoding.md R82). -/
def modeOf (cr1 : Byte) : Option Mode :=
  match (cr1.extractLsb' 4 4).toNat with
  | 0x1 => some .init
  | 0x2 => some .start
  | 0x3 => some .increment
  | 0x4 => some .repeat
  | 0xA => some .powerDown
  | 0xB => some .standby
  | _ => none

/-- The decoded view of the shadows: the ControlRegisterState of the source (10_state.md R36). A field is none when its
shadow is unknown; `mode` is some none when CR1[7:4] decodes as "other". -/
structure ControlRegisterState where
  mode : Option (Option Mode)
  rangeCode : Option (BitVec 2)
  gainCode : Option (BitVec 1)
  clockSource : Option (BitVec 1)
  deriving DecidableEq, Repr

/-- The decoded view of a block's shadows (10_state.md R36). -/
def controlRegisterState (b : Block) : ControlRegisterState where
  mode := b.cr1Shadow.map modeOf
  rangeCode := b.cr1Shadow.map (BitVec.extractLsb' 1 2)
  gainCode := b.cr1Shadow.map (BitVec.extractLsb' 0 1)
  clockSource := b.cr2Shadow.map (BitVec.extractLsb' Config.clkSrcBit 1)

end Sys2Proof.Machine
end

