-- ==== Sys2Proof/Machine/Ops.lean ====
section
/-! DEFINITION. The operations every command is made of: one bus transaction (00_scope.md R9), raising an error (R10), the
end of a command, which commits, enters Faulted or rejects (R11, 60_exceptions.md R207, R208), the control-register
read-modify-write (41_control_register.md R121), and the block's reset (70_reset_and_hazards.md R230). -/

namespace Sys2Proof.Machine

/-- An error a command raises (60_exceptions.md R200). -/
inductive Raise where
  /-- IOError (bus): a transaction failed (R201). -/
  | bus (isWrite : Bool) (addr : Addr)
  /-- IOError (UnexpectedStatus), with the raw status byte (R202). -/
  | unexpectedStatus (st : Byte)
  /-- SweepTimeout (R204). -/
  | sweepTimeout
  /-- FrequencyOutOfRange, `info` saying which code (R203). -/
  | frequencyOutOfRange (info : BitVec 16)
  /-- ConfigInvalid, `info` saying which operand (R205). -/
  | configInvalid (info : BitVec 16)
  /-- IllegalCommand, with the state at issue and the opcode (R206). -/
  | illegalCommand (ctl : Ctl) (op : BitVec 8)
  deriving DecidableEq, Repr

/-- The error's `rsp_status` (60_exceptions.md R200). -/
def raiseStatus : Raise → Status
  | .bus _ _ => .ioError
  | .unexpectedStatus _ => .ioError
  | .sweepTimeout => .sweepTimeout
  | .frequencyOutOfRange _ => .frequencyOutOfRange
  | .configInvalid _ => .configInvalid
  | .illegalCommand _ _ => .illegalCommand

/-- The error's `rsp_info` (60_exceptions.md R200). -/
def raiseInfo : Raise → BitVec 16
  | .bus isWrite addr => busInfo isWrite addr
  | .unexpectedStatus st => statusInfo st
  | .sweepTimeout => 0
  | .frequencyOutOfRange info => info
  | .configInvalid info => info
  | .illegalCommand ctl op => illegalInfo ctl op

/-- The error's `fault_code`; `.none` for the rejections, which record nothing (60_exceptions.md R200). -/
def raiseFaultCode : Raise → FaultCode
  | .bus _ _ => .bus
  | .unexpectedStatus _ => .unexpectedStatus
  | .sweepTimeout => .sweepTimeout
  | .frequencyOutOfRange _ => .none
  | .configInvalid _ => .none
  | .illegalCommand _ _ => .none

/-- How far a command has come: it goes on with a value, or it has raised an error. Either way the state holds what its
transactions have done so far (60_exceptions.md R210). -/
inductive Progress (α : Type) where
  | go (value : α) (s : State)
  | raised (e : Raise) (s : State)
  deriving DecidableEq, Repr

/-- Run `next` unless an error was raised (00_scope.md R10: no later line runs, no later transaction is issued). -/
def andThen {α β : Type} (p : Progress α) (next : α → State → Progress β) : Progress β :=
  match p with
  | .go value s => next value s
  | .raised e s => .raised e s

/-- The device's answer to the next transaction: the next one that is fixed, or else a free value (20_memory.md R61;
notes/assumptions/1.md). -/
def nextAnswer (s : State) (req : BusRequest) : BusAnswer :=
  match s.answers with
  | answer :: _ => answer
  | [] => Config.deviceAnswer s.draws req

/-- One transaction done: its answer is used up and it is appended to the trace (00_scope.md R9). -/
def record (s : State) (event : BusEvent) : State :=
  { s with answers := s.answers.tail, draws := s.draws + 1, trace := s.trace ++ [event] }

/-- The shadow of CR1 or CR2 follows a write to it; a write elsewhere changes no shadow (10_state.md R37). -/
def setShadow (b : Block) (addr : Addr) (shadow : Option Byte) : Block :=
  if addr = cr1Addr then { b with cr1Shadow := shadow }
  else if addr = cr2Addr then { b with cr2Shadow := shadow }
  else b

/-- `MemRead(addr, 1)` (00_scope.md R9): a byte, or IOError. No read changes a shadow (10_state.md R37), and no read is
tried again (60_exceptions.md R201). -/
def memRead (addr : Addr) (s : State) : Progress Byte :=
  match nextAnswer s (.read addr) with
  | .ack byte => .go byte (record s (.read addr (some byte)))
  | .ioError => .raised (.bus false addr) (record s (.read addr none))

/-- `MemWrite(addr, 1, byte)` (00_scope.md R9): ok, or IOError. The shadow update is part of the transaction (10_state.md
R37). -/
def memWrite (addr : Addr) (byte : Byte) (s : State) : Progress Unit :=
  match nextAnswer s (.write addr byte) with
  | .ack _ => .go () { record s (.write addr byte true) with blk := setShadow s.blk addr (some byte) }
  | .ioError => .raised (.bus true addr) { record s (.write addr byte false) with blk := setShadow s.blk addr none }

/-- Byte writes one after another, up to the first that fails (20_memory.md R58, 60_exceptions.md R210). -/
def memWrites : List (Addr × Byte) → State → Progress Unit
  | [], s => .go () s
  | (addr, byte) :: rest, s => andThen (memWrite addr byte s) fun _ s => memWrites rest s

/-- Read-modify-write of one register: the read, then at once the write of what `change` makes of the byte read
(20_memory.md R60). -/
def modifyRegister (addr : Addr) (change : Byte → Byte) (s : State) : Progress Unit :=
  andThen (memRead addr s) fun v s => memWrite addr (change v) s

/-- `setMode(m)`: the read-modify-write of CR1 with the mode's pattern (41_control_register.md R121). -/
def setMode (m : Mode) (s : State) : Progress Unit := modifyRegister cr1Addr (modeByte m) s

/-- Raise IllegalCommand for the opcode in the present state (60_exceptions.md R206). -/
def raiseIllegal {α : Type} (op : BitVec 8) (s : State) : Progress α :=
  .raised (.illegalCommand s.blk.ctl op) s

/-- The response of a command that sets nothing but status and `ctl` (30_encoding.md R79). -/
def okResponse (ctl : Ctl) : Response := { status := .ok, ctl := ctl }

/-- End a command that raised nothing: commit `b` as the block's new state and answer OK with its `ctl` (00_scope.md
R11). -/
def commit (b : Block) (s : State) : Progress Response := .go (okResponse b.ctl) { s with blk := b }

/-- The sweep datapath cleared, as STANDBY, POWER_DOWN and INIT clear it (42_sweep_controller.md R142, R143, R144). -/
def clearDatapath (b : Block) : Block :=
  { b with idx := 0, rc := 0, sumRe := 0, sumIm := 0, failPolls := 0 }

/-- The fault record cleared, as STANDBY, the return from Faulted, clears it (42_sweep_controller.md R142, 60_exceptions.md
R211). -/
def clearFault (b : Block) : Block := { b with faultCode := .none, faultInfo := 0 }

/-- Fault entry (60_exceptions.md R207): Faulted, the fault record written, `configured` cleared if the command is
CONFIGURE; everything else as before the command, the shadows as the transactions left them. -/
def faultEntry (isConfigure : Bool) (code : FaultCode) (info : BitVec 16) (b : Block) : Block :=
  { b with ctl := .faulted, sub := .none, faultCode := code, faultInfo := info,
           configured := b.configured && !isConfigure }

/-- The response to an error, issued by a block whose `ctl` is now `ctl` (60_exceptions.md R207, R208). -/
def errorResponse (e : Raise) (ctl : Ctl) : Response :=
  { status := raiseStatus e, ctl := ctl, info := raiseInfo e }

/-- An error's effect at the end of a command: a fault enters Faulted (60_exceptions.md R207); a rejection changes no
state (R208). -/
def applyError (isConfigure : Bool) (e : Raise) (s : State) : State :=
  match raiseFaultCode e with
  | .none => { s with response := some (errorResponse e s.blk.ctl) }
  | code => { s with blk := faultEntry isConfigure code (raiseInfo e) s.blk
                     response := some (errorResponse e .faulted) }

/-- The end of a command: its response where it raised nothing, else its error's effect (00_scope.md R10, R11). -/
def conclude (isConfigure : Bool) : Progress Response → State
  | .go r s => { s with response := some r }
  | .raised e s => applyError isConfigure e s

/-- The outputs of the step before are gone: a step shows its own transactions and its own response alone (10_state.md
R34, 00_scope.md R9; notes/assumptions/4.md). -/
def clearOutputs (s : State) : State := { s with trace := [], response := none }

/-- One command as one atomic step (00_scope.md R4): its body from cleared outputs, then its end. No command stops the
machine, so the outcome is always a next state (notes/assumptions/9.md). -/
def runCommand (isConfigure : Bool) (body : State → Progress Response) (s : State) :
    Host.Outcome State Fault Refusal :=
  .next (conclude isConfigure (body (clearOutputs s)))

/-- A frame with a reserved opcode raises IllegalCommand in every state (30_encoding.md R78). -/
def execReserved (op : BitVec 8) (s : State) : Host.Outcome State Fault Refusal :=
  runCommand false (raiseIllegal op) s

/-- Reset, sent by the host between two commands (70_reset_and_hazards.md R230): every field of the block at its reset
value, no transaction, no response. The host, the device and the parameter are not the block's to reset (R231). -/
def resetBlock (s : State) : State := { clearOutputs s with blk := Block.reset }

end Sys2Proof.Machine
end

