-- ==== Sys2Proof/Machine/ControlRegister.lean ====
section
/-! DEFINITION. The bit-field commands on the control registers (41_control_register.md R124 to R127). -/

namespace Sys2Proof.Machine

/-- The shape the three bit-field commands share: legal in Idle and Standby alone (42_sweep_controller.md R141), one
read-modify-write, no block field but a shadow changed. -/
def fieldBody (op : BitVec 8) (addr : Addr) (change : Byte → Byte) (s : State) : Progress Response :=
  if s.blk.ctl ≠ .idle ∧ s.blk.ctl ≠ .standby then raiseIllegal op s
  else andThen (modifyRegister addr change s) fun _ s => commit s.blk s

/-- SET_RANGE: the output-range code into CR1[2:1] (41_control_register.md R124). -/
def execSetRange (rangeCode : BitVec 2) (s : State) : Host.Outcome State Fault Refusal :=
  runCommand false (fieldBody 0x03 cr1Addr (rangeByte rangeCode)) s

/-- SET_GAIN: the gain code into CR1[0] (41_control_register.md R125). -/
def execSetGain (gainCode : BitVec 1) (s : State) : Host.Outcome State Fault Refusal :=
  runCommand false (fieldBody 0x04 cr1Addr (gainByte gainCode)) s

/-- SET_CLOCK_SOURCE: the clock-source bit into CR2 (41_control_register.md R126). -/
def execSetClockSource (clkSrc : BitVec 1) (s : State) : Host.Outcome State Fault Refusal :=
  runCommand false (fieldBody 0x05 cr2Addr (clockByte clkSrc)) s

end Sys2Proof.Machine
end

