-- ==== Sys2Proof/Machine/Encoder.lean ====
section
/-! DEFINITION. The frequency encoder (40_encoder_and_program.md R100 to R105) and the two commands that use it, ENCODE
(R106) and CONFIGURE (R107). -/

namespace Sys2Proof.Machine

/-- `q` of the encoder: `freq · 2^31 / clk` rounded to the nearest integer, a tie rounding up, on unbounded integers
(40_encoder_and_program.md R100). -/
def encodeQuotient (freq clk : BitVec 32) : Nat :=
  (freq.toNat * 2 ^ 32 + clk.toNat) / (2 * clk.toNat)

/-- `Encode(freq, clk)`: the 24-bit code, or none where it raises FrequencyOutOfRange: at clock 0, or when the rounded
code exceeds the ceiling. It never clamps (40_encoder_and_program.md R100, R101). -/
def encodeFrequency (freq clk : BitVec 32) : Option (BitVec 24) :=
  if clk = 0 then none
  else if encodeQuotient freq clk > Config.codeMax then none
  else some (BitVec.ofNat 24 (encodeQuotient freq clk))

/-- `Decode(code, clk)`: the frequency a code represents, `code · clk / 2^31`, in the input unit
(40_encoder_and_program.md R103). -/
def decodeFrequency (code : BitVec 24) (clk : BitVec 32) : Rat :=
  ((code.toNat * clk.toNat : Nat) : Rat) / 2 ^ 31

/-- ENCODE's body (40_encoder_and_program.md R106). -/
def encodeBody (freq clk : BitVec 32) (s : State) : Progress Response :=
  match encodeFrequency freq clk with
  | none => .raised (.frequencyOutOfRange 0) s
  | some code => .go { status := .ok, ctl := s.blk.ctl, code := code } s

/-- ENCODE: one frequency code, no side effect, legal in every state (40_encoder_and_program.md R106). -/
def execEncode (freq clk : BitVec 32) (s : State) : Host.Outcome State Fault Refusal :=
  runCommand false (encodeBody freq clk) s

/-- The block with the SweepProgram loaded and `configured` set (40_encoder_and_program.md R107). -/
def loadProgram (start inc clk : BitVec 32) (ninc : BitVec 9) (settle : BitVec 10) (mult : BitVec 2)
    (rep : BitVec 16) (startCode incCode : BitVec 24) (b : Block) : Block :=
  { b with
    pStart := start
    pInc := inc
    pClk := clk
    pNinc := ninc
    pSettle := settle
    pMult := mult
    pRep := rep
    pStartCode := startCode
    pIncCode := incCode
    configured := true }

/-- CONFIGURE's body: the checks in the order of 60_exceptions.md R209, then the ten writes, then the program registers
(40_encoder_and_program.md R107). -/
def configureBody (start inc clk : BitVec 32) (ninc : BitVec 9) (settle : BitVec 10) (mult : BitVec 2)
    (rep : BitVec 16) (s : State) : Progress Response :=
  if s.blk.ctl ≠ .idle ∧ s.blk.ctl ≠ .standby then raiseIllegal 0x02 s
  else
    match encodeFrequency start clk with
    | none => .raised (.frequencyOutOfRange 1) s
    | some startCode =>
      match encodeFrequency inc clk with
      | none => .raised (.frequencyOutOfRange 2) s
      | some incCode =>
        if mult = 0b10 then .raised (.configInvalid 1) s
        else if rep = 0 then .raised (.configInvalid 2) s
        else
          andThen (memWrites (programWrites startCode incCode ninc settle mult) s) fun _ s =>
            commit (loadProgram start inc clk ninc settle mult rep startCode incCode s.blk) s

/-- CONFIGURE: validate a SweepProgram, write it to the device, load it (40_encoder_and_program.md R107). -/
def execConfigure (start inc clk : BitVec 32) (ninc : BitVec 9) (settle : BitVec 10) (mult : BitVec 2)
    (rep : BitVec 16) (s : State) : Host.Outcome State Fault Refusal :=
  runCommand true (configureBody start inc clk ninc settle mult rep) s

end Sys2Proof.Machine
end

