-- ==== Sys2Proof/Machine/Averager.lean ====
section
/-! DEFINITION. The averaging accumulator and the point record (44_averager.md R180 to R184), and the downstream contract
that rules R186 to R189 record for the consumer of a point, outside the block (00_scope.md R3; notes/assumptions/13.md). -/

namespace Sys2Proof.Machine

/-- One accumulator plus one sample: an exact s32 addition (44_averager.md R180; it cannot overflow in a reachable state,
R182; notes/assumptions/7.md). -/
def accumulate (sum : BitVec 32) (sample : BitVec 16) : BitVec 32 := sum + sext32 sample

/-- `pt_freq` = `p_start + idx * p_inc`, exact in 41 bits (44_averager.md R183, D47). -/
def pointFrequency (b : Block) : BitVec 41 :=
  BitVec.ofNat 41 (b.pStart.toNat + b.idx.toNat * b.pInc.toNat)

/-- The response of a POLL that consumed the sample (`re`, `im`) and completed no point (43_measurement_poller.md R167). -/
def sampleResponse (ctl : Ctl) (re im : BitVec 16) : Response :=
  { status := .ok, ctl := ctl, sampleValid := true, re := re, im := im }

/-- The response of a POLL that consumed the sample (`re`, `im`) and completed the point at `idx`: the sums include this
sample, the index is the one before any increment (44_averager.md R183). -/
def pointResponse (ctl : Ctl) (re im : BitVec 16) (b : Block) : Response :=
  { sampleResponse ctl re im with
    pointValid := true
    ptIdx := b.idx
    ptFreq := pointFrequency b
    ptSumRe := accumulate b.sumRe re
    ptSumIm := accumulate b.sumIm im
    ptCount := b.pRep }

/-- `realMean` of an emitted point, an exact rational (44_averager.md R184). -/
def realMean (r : Response) : Rat := (r.ptSumRe.toInt : Rat) / (r.ptCount.toNat : Rat)

/-- `imagMean` of an emitted point, an exact rational (44_averager.md R184). -/
def imagMean (r : Response) : Rat := (r.ptSumIm.toInt : Rat) / (r.ptCount.toNat : Rat)

/-- Magnitude, computed downstream with the open parameter `SQRT` (44_averager.md R186, D42). -/
def magnitude {F : Type} (sqrt : Rat → F) (r : Response) : F := sqrt (realMean r ^ 2 + imagMean r ^ 2)

/-- Phase in radians, computed downstream with the open parameter `ATAN2`, the imaginary mean first (44_averager.md R187,
D42). -/
def phase {F : Type} (atan2 : Rat → Rat → F) (r : Response) : F := atan2 (imagMean r) (realMean r)

/-- The source's AveragedPoint, as the consumer of a point forms it: `frequencyHz`, still in the input unit, the means,
`magnitude`, `phase` and `repeatCount` (44_averager.md R189). -/
structure AveragedPoint (F : Type) where
  frequency : BitVec 41
  realMean : Rat
  imagMean : Rat
  magnitude : F
  phase : F
  repeatCount : BitVec 16
  deriving DecidableEq, Repr

/-- The AveragedPoint of an emitted point, with the downstream parameters `SQRT` and `ATAN2` (44_averager.md R189;
notes/assumptions/13.md). -/
def averagedPoint {F : Type} (sqrt : Rat → F) (atan2 : Rat → Rat → F) (r : Response) : AveragedPoint F where
  frequency := r.ptFreq
  realMean := realMean r
  imagMean := imagMean r
  magnitude := magnitude sqrt r
  phase := phase atan2 r
  repeatCount := r.ptCount

end Sys2Proof.Machine
end

