-- ==== Sys2Proof/Machine/Poller.lean ====
section
/-! DEFINITION. POLL, the measurement poller's one iteration, with the repeat-or-advance decision (43_measurement_poller.md
R160 to R167). -/

namespace Sys2Proof.Machine

/-- The four data bytes, in the order 0x94, 0x95, 0x96, 0x97, as the sample (`re`, `im`) (43_measurement_poller.md R162). -/
def readSample (s : State) : Progress (BitVec 16 × BitVec 16) :=
  andThen (memRead realHighAddr s) fun rh s =>
  andThen (memRead realLowAddr s) fun rl s =>
  andThen (memRead imagHighAddr s) fun ih s =>
  andThen (memRead imagLowAddr s) fun il s =>
  .go (word16 rh rl, word16 ih il) s

/-- An empty poll: one more on the count, or SweepTimeout when the count reaches the budget (43_measurement_poller.md
R163). -/
def pollEmpty (s : State) : Progress Response :=
  if s.blk.failPolls.toNat + 1 ≥ s.pollBudget.toNat then .raised .sweepTimeout s
  else commit { s.blk with failPolls := s.blk.failPolls + 1 } s

/-- A sample that does not complete its point: `setMode(Repeat)`, then the sums and the count (43_measurement_poller.md
R164). -/
def pollRepeat (re im : BitVec 16) (s : State) : Progress Response :=
  andThen (setMode .repeat s) fun _ s =>
    .go (sampleResponse .sweeping re im)
      { s with blk := { s.blk with
          sumRe := accumulate s.blk.sumRe re
          sumIm := accumulate s.blk.sumIm im
          rc := s.blk.rc + 1
          sub := .repeating
          failPolls := 0 } }

/-- A sample that completes a point before the last: `setMode(Increment)`, then the next index, the point emitted
(43_measurement_poller.md R165). -/
def pollAdvance (re im : BitVec 16) (s : State) : Progress Response :=
  andThen (setMode .increment s) fun _ s =>
    .go (pointResponse .sweeping re im s.blk)
      { s with blk := { s.blk with
          idx := s.blk.idx + 1
          rc := 0
          sumRe := 0
          sumIm := 0
          sub := .advancing
          failPolls := 0 } }

/-- A sample that completes the last point: the point emitted, no mode write, Complete (43_measurement_poller.md R165). -/
def pollComplete (re im : BitVec 16) (s : State) : Progress Response :=
  .go (pointResponse .complete re im s.blk)
    { s with blk := { s.blk with
        ctl := .complete
        sub := .none
        rc := 0
        sumRe := 0
        sumIm := 0
        failPolls := 0 } }

/-- The decision after a sample was read with the status byte `st`: repeat, advance, complete, or the failed cross-check
(43_measurement_poller.md R164, R165). -/
def pollSample (st : Byte) (re im : BitVec 16) (s : State) : Progress Response :=
  if s.blk.rc.toNat + 1 < s.blk.pRep.toNat then pollRepeat re im s
  else if statusDone st = false ∧ s.blk.idx ≠ s.blk.pNinc then pollAdvance re im s
  else if statusDone st = true ∧ s.blk.idx = s.blk.pNinc then pollComplete re im s
  else .raised (.unexpectedStatus st) s

/-- POLL's body (43_measurement_poller.md R160). -/
def pollBody (s : State) : Progress Response :=
  if s.blk.ctl ≠ .sweeping then raiseIllegal 0x20 s
  else
    andThen (memRead statusAddr s) fun st s =>
      if statusValid st then andThen (readSample s) fun sample s => pollSample st sample.1 sample.2 s
      else pollEmpty s

/-- POLL: one iteration of the polling loop (43_measurement_poller.md R160). -/
def execPoll (s : State) : Host.Outcome State Fault Refusal := runCommand false pollBody s

end Sys2Proof.Machine
end

