-- ==== Sys2Proof/Machine/SweepController.lean ====
section
/-! DEFINITION. The mode-transition commands of the sweep controller (42_sweep_controller.md R142 to R145). -/

namespace Sys2Proof.Machine

/-- STANDBY's body (42_sweep_controller.md R142). -/
def standbyBody (s : State) : Progress Response :=
  andThen (setMode .standby s) fun _ s =>
    commit { clearFault (clearDatapath s.blk) with ctl := .standby, sub := .none } s

/-- STANDBY: the device into Standby mode, the controller into Standby; the recovery command, legal in every state
(42_sweep_controller.md R142, 60_exceptions.md R211). -/
def execStandby (s : State) : Host.Outcome State Fault Refusal := runCommand false standbyBody s

/-- POWER_DOWN's body (42_sweep_controller.md R143). -/
def powerDownBody (s : State) : Progress Response :=
  if s.blk.ctl = .faulted then raiseIllegal 0x11 s
  else andThen (setMode .powerDown s) fun _ s =>
    commit { clearDatapath s.blk with ctl := .idle, sub := .none } s

/-- POWER_DOWN: the device into PowerDown mode, the controller into Idle (42_sweep_controller.md R143). -/
def execPowerDown (s : State) : Host.Outcome State Fault Refusal := runCommand false powerDownBody s

/-- INIT's body (42_sweep_controller.md R144). -/
def initBody (s : State) : Progress Response :=
  if s.blk.ctl ≠ .standby ∨ s.blk.configured = false then raiseIllegal 0x12 s
  else andThen (setMode .init s) fun _ s =>
    commit { clearDatapath s.blk with ctl := .initialized, sub := .none } s

/-- INIT: the device into Init mode, the controller into Initialized (42_sweep_controller.md R144). -/
def execInit (s : State) : Host.Outcome State Fault Refusal := runCommand false initBody s

/-- START's body (42_sweep_controller.md R145). -/
def startBody (s : State) : Progress Response :=
  if s.blk.ctl ≠ .initialized then raiseIllegal 0x13 s
  else andThen (setMode .start s) fun _ s =>
    commit { s.blk with ctl := .sweeping, sub := .started, failPolls := 0 } s

/-- START: the device into Start mode, the controller into Sweeping (42_sweep_controller.md R145). -/
def execStart (s : State) : Host.Outcome State Fault Refusal := runCommand false startBody s

end Sys2Proof.Machine
end

