-- ==== Sys2Proof/Syntax.lean ====
section
/-! DEFINITION. The ten commands, one constructor per row of spec/opcode_table.json, each operand a bit field of exactly
the width 30_encoding.md R74, R75 and R76 give it. -/

namespace Sys2Proof

/-- A command of the block (30_encoding.md R71). -/
inductive Instr where
  /-- ENCODE: one frequency code (40_encoder_and_program.md R106). -/
  | encode (freq clk : BitVec 32)
  /-- CONFIGURE: validate and load a SweepProgram (40_encoder_and_program.md R107). -/
  | configure (start inc clk : BitVec 32) (ninc : BitVec 9) (settle : BitVec 10) (mult : BitVec 2) (rep : BitVec 16)
  /-- SET_RANGE: write the output-range code (41_control_register.md R124). -/
  | setRange (rangeCode : BitVec 2)
  /-- SET_GAIN: write the gain code (41_control_register.md R125). -/
  | setGain (gainCode : BitVec 1)
  /-- SET_CLOCK_SOURCE: write the clock-source bit, 0 Internal, 1 External (41_control_register.md R126). -/
  | setClockSource (clkSrc : BitVec 1)
  /-- STANDBY: the recovery command (42_sweep_controller.md R142). -/
  | standby
  /-- POWER_DOWN (42_sweep_controller.md R143). -/
  | powerDown
  /-- INIT (42_sweep_controller.md R144). -/
  | init
  /-- START (42_sweep_controller.md R145). -/
  | start
  /-- POLL: one iteration of the polling loop (43_measurement_poller.md R160). -/
  | poll
  deriving DecidableEq, Repr

end Sys2Proof
end

