-- ==== Sys2Proof/Machine/Dispatch.lean ====
section
/-! DEFINITION. The meaning of each command, one arm per constructor of Instr (30_encoding.md R71). -/

namespace Sys2Proof.Machine

def exec (i : Instr) (s : State) : Host.Outcome State Fault Refusal :=
  match i with
  | .encode freq clk => Sys2Proof.Machine.execEncode freq clk s
  | .configure start inc clk ninc settle mult rep => Sys2Proof.Machine.execConfigure start inc clk ninc settle mult rep s
  | .setRange rangeCode => Sys2Proof.Machine.execSetRange rangeCode s
  | .setGain gainCode => Sys2Proof.Machine.execSetGain gainCode s
  | .setClockSource clkSrc => Sys2Proof.Machine.execSetClockSource clkSrc s
  | .standby => Sys2Proof.Machine.execStandby s
  | .powerDown => Sys2Proof.Machine.execPowerDown s
  | .init => Sys2Proof.Machine.execInit s
  | .start => Sys2Proof.Machine.execStart s
  | .poll => Sys2Proof.Machine.execPoll s

end Sys2Proof.Machine
end

