-- ==== Sys2Proof/WellFormed.lean ====
section
/-! DEFINITION. Which commands carry legal operand values. Every operand has its field's width by its type; what is left
of 30_encoding.md R76's table of legal values is the reserved multiplier code and the repeat target 0. An ill-formed
CONFIGURE is still encoded, decoded and executed: it answers ConfigInvalid (60_exceptions.md R205). -/

namespace Sys2Proof

/-- The settling multiplier code is not the reserved 0b10 (30_encoding.md R76). -/
def multLegal (mult : BitVec 2) : Bool := mult != 0b10#2

/-- The repeat target lies in 1..65535 (30_encoding.md R76). -/
def repLegal (rep : BitVec 16) : Bool := rep != 0#16

/-- Every operand holds a legal value (DEDUCED from 30_encoding.md R76, notes/assumptions/17.md). -/
def wellFormed : Instr → Bool
  | .encode _ _ => true
  | .configure _ _ _ _ _ mult rep => multLegal mult && repLegal rep
  | .setRange _ => true
  | .setGain _ => true
  | .setClockSource _ => true
  | .standby => true
  | .powerDown => true
  | .init => true
  | .start => true
  | .poll => true

end Sys2Proof
end

