-- ==== Sys2Proof/Decode.lean ====
section
/-! DEFINITION. Decoding of the command frame (30_encoding.md R70 to R78) and, after it, the encoder written from the same
tables. Decoding looks at `op` alone and then picks the operands' fields out of the words A to E; bits that a format does
not use are ignored (R77); a reserved opcode is rejected by name (R78). -/

namespace Sys2Proof

/-- Why a frame is no command. -/
inductive DecodeError where
  /-- The opcode is reserved (30_encoding.md R78). The step answers IllegalCommand. -/
  | reservedOpcode (op : BitVec 8)
  deriving DecidableEq, Repr

/-- `op` = frame[7:0] (30_encoding.md R70). -/
def frameOp (f : Frame) : BitVec 8 := f.extractLsb' 0 8

/-- Word `A` = frame[39:8] (30_encoding.md R70). -/
def frameA (f : Frame) : BitVec 32 := f.extractLsb' 8 32

/-- Word `B` = frame[71:40] (30_encoding.md R70). -/
def frameB (f : Frame) : BitVec 32 := f.extractLsb' 40 32

/-- Word `C` = frame[103:72] (30_encoding.md R70). -/
def frameC (f : Frame) : BitVec 32 := f.extractLsb' 72 32

/-- Word `D` = frame[135:104] (30_encoding.md R70). -/
def frameD (f : Frame) : BitVec 32 := f.extractLsb' 104 32

/-- Word `E` = frame[167:136] (30_encoding.md R70). -/
def frameE (f : Frame) : BitVec 32 := f.extractLsb' 136 32

/-- The command a frame stands for (30_encoding.md R71, with the operands of R73 to R76). -/
def decode (f : Frame) : Except DecodeError Instr :=
  match (frameOp f).toNat with
  | 0x01 => .ok (.encode (frameA f) (frameB f))
  | 0x02 => .ok (.configure (frameA f) (frameB f) (frameC f) ((frameD f).extractLsb' 0 9)
      ((frameD f).extractLsb' 9 10) ((frameD f).extractLsb' 19 2) ((frameE f).extractLsb' 0 16))
  | 0x03 => .ok (.setRange ((frameA f).extractLsb' 0 2))
  | 0x04 => .ok (.setGain ((frameA f).extractLsb' 0 1))
  | 0x05 => .ok (.setClockSource ((frameA f).extractLsb' 0 1))
  | 0x10 => .ok .standby
  | 0x11 => .ok .powerDown
  | 0x12 => .ok .init
  | 0x13 => .ok .start
  | 0x20 => .ok .poll
  | _ => .error (.reservedOpcode (frameOp f))

/-- A command's opcode (30_encoding.md R71). -/
def opcodeOf : Instr → BitVec 8
  | .encode _ _ => 0x01
  | .configure _ _ _ _ _ _ _ => 0x02
  | .setRange _ => 0x03
  | .setGain _ => 0x04
  | .setClockSource _ => 0x05
  | .standby => 0x10
  | .powerDown => 0x11
  | .init => 0x12
  | .start => 0x13
  | .poll => 0x20

/-- The frame with the words `E`, `D`, `C`, `B`, `A` and the opcode (30_encoding.md R70). -/
def packFrame (e d c b a : BitVec 32) (op : BitVec 8) : Frame :=
  e ++ d ++ c ++ b ++ a ++ op

/-- Word `D` of CONFIGURE: `mult`, `settle` and `ninc`, its unused bits 0 (30_encoding.md R76). -/
def configureD (ninc : BitVec 9) (settle : BitVec 10) (mult : BitVec 2) : BitVec 32 :=
  0#11 ++ mult ++ settle ++ ninc

/-- The frame of a command, every bit its format does not use 0 (30_encoding.md R70 to R76). -/
def encode : Instr → Frame
  | .encode freq clk => packFrame 0 0 0 clk freq 0x01
  | .configure start inc clk ninc settle mult rep =>
      packFrame (rep.setWidth 32) (configureD ninc settle mult) clk inc start 0x02
  | .setRange rangeCode => packFrame 0 0 0 0 (rangeCode.setWidth 32) 0x03
  | .setGain gainCode => packFrame 0 0 0 0 (gainCode.setWidth 32) 0x04
  | .setClockSource clkSrc => packFrame 0 0 0 0 (clkSrc.setWidth 32) 0x05
  | .standby => packFrame 0 0 0 0 0 0x10
  | .powerDown => packFrame 0 0 0 0 0 0x11
  | .init => packFrame 0 0 0 0 0 0x12
  | .start => packFrame 0 0 0 0 0 0x13
  | .poll => packFrame 0 0 0 0 0 0x20

/-- The frame that a row of spec/opcode_table.json stands for: its low `nbits` bits are those of `w`, every other bit is
0. A frame is one 168-bit value on the command port, so no byte order enters (30_encoding.md R70). -/
def tableFrame (nbits w : Nat) : Frame := BitVec.ofNat 168 (w % 2 ^ nbits)

/-- The command the decoder reads from an opcode-table row's bits. -/
def decodeTableWord (nbits w : Nat) : Option Instr :=
  match decode (tableFrame nbits w) with
  | .ok i => some i
  | .error _ => none

end Sys2Proof
end

