-- ==== Sys2Proof/Machine/Port.lean ====
section
/-! DEFINITION. The block's ports: the command port, from which the step takes the host's next input (20_memory.md R54,
R62), and the read-only state port (10_state.md R41). -/

namespace Sys2Proof.Machine

/-- What the host sends next and the state without it; none when the host sends nothing (20_memory.md R62). -/
def takeInput (s : State) : Option (HostInput × State) :=
  match s.inputs with
  | [] => none
  | input :: rest => some (input, { s with inputs := rest })

/-- The host sends nothing: the block waits, for ever if need be (20_memory.md R62, notes/assumptions/3.md). -/
def idleStep (s : State) : State := clearOutputs s

/-- A frame placed on the command port, ahead of whatever the host sends later. -/
def putFrame (s : State) (f : Frame) : State := { s with inputs := .command f :: s.inputs }

/-- A shadow on the state port: a valid bit, and a byte that means something only beside a valid bit of 1 (10_state.md
R41). -/
structure ShadowPort where
  valid : Bool
  byte : Byte
  deriving DecidableEq, Repr

/-- The state port: every field of 10_state.md R20 in its encoding. -/
structure StatePort where
  ctl : BitVec 3
  sub : BitVec 2
  configured : Bool
  pStart : BitVec 32
  pInc : BitVec 32
  pClk : BitVec 32
  pNinc : BitVec 9
  pSettle : BitVec 10
  pMult : BitVec 2
  pRep : BitVec 16
  pStartCode : BitVec 24
  pIncCode : BitVec 24
  idx : BitVec 9
  rc : BitVec 16
  sumRe : BitVec 32
  sumIm : BitVec 32
  failPolls : BitVec 32
  faultCode : BitVec 3
  faultInfo : BitVec 16
  cr1 : ShadowPort
  cr2 : ShadowPort
  deriving DecidableEq, Repr

/-- A shadow as the port shows it; the byte beside a valid bit of 0 is a free value (notes/assumptions/11.md). -/
def shadowPort (draws : Nat) (addr : Addr) : Option Byte → ShadowPort
  | some byte => ⟨true, byte⟩
  | none => ⟨false, Config.unknownShadowByte draws addr⟩

/-- What the host reads on the state port (10_state.md R41). Reading is a function of the state: it has no effect. -/
def statePort (s : State) : StatePort where
  ctl := ctlCode s.blk.ctl
  sub := subCode s.blk.sub
  configured := s.blk.configured
  pStart := s.blk.pStart
  pInc := s.blk.pInc
  pClk := s.blk.pClk
  pNinc := s.blk.pNinc
  pSettle := s.blk.pSettle
  pMult := s.blk.pMult
  pRep := s.blk.pRep
  pStartCode := s.blk.pStartCode
  pIncCode := s.blk.pIncCode
  idx := s.blk.idx
  rc := s.blk.rc
  sumRe := s.blk.sumRe
  sumIm := s.blk.sumIm
  failPolls := s.blk.failPolls
  faultCode := faultCodeBits s.blk.faultCode
  faultInfo := s.blk.faultInfo
  cr1 := shadowPort s.draws cr1Addr s.blk.cr1Shadow
  cr2 := shadowPort s.draws cr2Addr s.blk.cr2Shadow

end Sys2Proof.Machine
end

