-- ==== Sys2Proof/Machine/Step.lean ====
section
/-! DEFINITION. One step of the machine: the host's next input taken from the command port and carried out (00_scope.md R4,
20_memory.md R62). -/

namespace Sys2Proof.Machine

/-- One step: nothing to do, a reset, a command, or a frame whose opcode is reserved (20_memory.md R62, 30_encoding.md
R78). -/
def step (s : State) : Host.Outcome State Fault Refusal :=
  match takeInput s with
  | none => .next (idleStep s)
  | some (.reset, s') => .next (resetBlock s')
  | some (.command f, s') =>
    match decode f with
    | .ok i => exec i s'
    | .error (.reservedOpcode op) => execReserved op s'

/-- The frame of an opcode-table row placed on the command port as what the host sends next (notes/assumptions/3.md). -/
def State.withFetchWord (s : State) (nbits w : Nat) : State := putFrame s (tableFrame nbits w)

end Sys2Proof.Machine
end

