-- ==== Sys2Proof/Machine/HostSide.lean ====
section
/-! DEFINITION. The host's side of the command port, as far as the spec gives it: the assembler syntax (30_encoding.md
R90), the two pseudo-instructions (R91, R92), and the host's own codes for ranges and gains (R74). Nothing here is state or
behaviour of the block. -/

namespace Sys2Proof.Machine

/-- Why the assembler rejects a line (30_encoding.md R90). -/
inductive AsmError where
  /-- The line's first word is no mnemonic. -/
  | unknownMnemonic
  /-- The mnemonic takes another number of operands. -/
  | operandCount
  /-- An operand is no number and no name that its place allows. -/
  | malformedOperand
  /-- An operand does not fit its field: "the assembler never truncates it". -/
  | operandTooWide
  deriving DecidableEq, Repr

/-- The value of a decimal digit. -/
def decimalDigit (c : Char) : Option Nat :=
  if 48 ≤ c.toNat ∧ c.toNat ≤ 57 then some (c.toNat - 48) else none

/-- The value of a hexadecimal digit, in either case (notes/assumptions/12.md). -/
def hexDigit (c : Char) : Option Nat :=
  if 97 ≤ c.toNat ∧ c.toNat ≤ 102 then some (c.toNat - 87)
  else if 65 ≤ c.toNat ∧ c.toNat ≤ 70 then some (c.toNat - 55)
  else decimalDigit c

/-- The number that the digits after `acc` make in a base; none at the first character that is no digit. -/
def readDigits (base : Nat) (digit : Char → Option Nat) : Nat → List Char → Option Nat
  | acc, [] => some acc
  | acc, c :: cs =>
    match digit c with
    | none => none
    | some d => readDigits base digit (acc * base + d) cs

/-- A number: decimal digits, or `0x` and hexadecimal digits, at least one of them (30_encoding.md R90). -/
def readNumber : List Char → Option Nat
  | '0' :: 'x' :: c :: cs => readDigits 16 hexDigit 0 (c :: cs)
  | c :: cs => readDigits 10 decimalDigit 0 (c :: cs)
  | [] => none

/-- An operand that must be a number of at most `w` bits (30_encoding.md R90). -/
def numberOperand (w : Nat) (cs : List Char) : Except AsmError (BitVec w) :=
  match readNumber cs with
  | none => .error .malformedOperand
  | some n => if n < 2 ^ w then .ok (BitVec.ofNat w n) else .error .operandTooWide

/-- The multiplier operand: `X1`, `X2`, `X4`, or a number 0..3 (30_encoding.md R90). -/
def multOperand (cs : List Char) : Except AsmError (BitVec 2) :=
  if cs = ['X', '1'] then .ok 0b00
  else if cs = ['X', '2'] then .ok 0b01
  else if cs = ['X', '4'] then .ok 0b11
  else numberOperand 2 cs

/-- The clock-source operand: `INTERNAL` or `EXTERNAL` (30_encoding.md R90). -/
def clockOperand (cs : List Char) : Except AsmError (BitVec 1) :=
  if cs = ['I', 'N', 'T', 'E', 'R', 'N', 'A', 'L'] then .ok 0
  else if cs = ['E', 'X', 'T', 'E', 'R', 'N', 'A', 'L'] then .ok 1
  else .error .malformedOperand

/-- What separates words: a space, a tab or the end of the line (notes/assumptions/12.md). -/
def isBlank (c : Char) : Bool := c = ' ' || c = '\t' || c = '\n' || c = '\r'

/-- A line without its comment, which `;` begins (30_encoding.md R90). -/
def stripComment (cs : List Char) : List Char := cs.takeWhile (· ≠ ';')

/-- A text without the blanks before and after it. -/
def trimBlanks (cs : List Char) : List Char := ((cs.dropWhile isBlank).reverse.dropWhile isBlank).reverse

/-- A text cut at its commas. -/
def splitCommas : List Char → List (List Char)
  | [] => [[]]
  | c :: cs =>
    if c = ',' then [] :: splitCommas cs
    else
      match splitCommas cs with
      | [] => [[c]]
      | piece :: pieces => (c :: piece) :: pieces

/-- The operands of a line: none where nothing but blanks follows the mnemonic, else the pieces between the commas. -/
def operandTexts (cs : List Char) : List (List Char) :=
  if trimBlanks cs = [] then [] else (splitCommas cs).map trimBlanks

/-- The line of ENCODE (30_encoding.md R90). -/
def assembleEncode : List (List Char) → Except AsmError Instr
  | [freq, clk] => do
    let freq ← numberOperand 32 freq
    let clk ← numberOperand 32 clk
    return .encode freq clk
  | _ => .error .operandCount

/-- The line of CONFIGURE (30_encoding.md R90). -/
def assembleConfigure : List (List Char) → Except AsmError Instr
  | [start, inc, clk, ninc, settle, mult, rep] => do
    let start ← numberOperand 32 start
    let inc ← numberOperand 32 inc
    let clk ← numberOperand 32 clk
    let ninc ← numberOperand 9 ninc
    let settle ← numberOperand 10 settle
    let mult ← multOperand mult
    let rep ← numberOperand 16 rep
    return .configure start inc clk ninc settle mult rep
  | _ => .error .operandCount

/-- A line with one operand. -/
def assembleOne {α : Type} (operand : List Char → Except AsmError α) (make : α → Instr) :
    List (List Char) → Except AsmError Instr
  | [text] => do
    let value ← operand text
    return make value
  | _ => .error .operandCount

/-- A line without operands. -/
def assembleNone (i : Instr) : List (List Char) → Except AsmError Instr
  | [] => .ok i
  | _ => .error .operandCount

/-- The ten mnemonics of 30_encoding.md R90, each with the reading of its operands. DESIGN CHOICE (notes/assumptions/12.md):
`BEGIN_SWEEP` and `RUN_SWEEP` are not read as lines of text and are an unknown mnemonic here. R91 and R92 call them
pseudo-instructions and give them no line form; they stand below as `beginSweep` and `runSweep`, what the host issues. -/
def assembleWord (word : List Char) (operands : List (List Char)) : Except AsmError Instr :=
  if word = "ENCODE".toList then assembleEncode operands
  else if word = "CONFIGURE".toList then assembleConfigure operands
  else if word = "SET_RANGE".toList then assembleOne (numberOperand 2) .setRange operands
  else if word = "SET_GAIN".toList then assembleOne (numberOperand 1) .setGain operands
  else if word = "SET_CLOCK_SOURCE".toList then assembleOne clockOperand .setClockSource operands
  else if word = "STANDBY".toList then assembleNone .standby operands
  else if word = "POWER_DOWN".toList then assembleNone .powerDown operands
  else if word = "INIT".toList then assembleNone .init operands
  else if word = "START".toList then assembleNone .start operands
  else if word = "POLL".toList then assembleNone .poll operands
  else .error .unknownMnemonic

/-- One line of assembler text, `;` beginning a comment (30_encoding.md R90): a command, none for a line that holds nothing
else, or an error. -/
def assembleLine (line : List Char) : Except AsmError (Option Instr) :=
  match trimBlanks (stripComment line) with
  | [] => .ok none
  | c :: cs =>
    match assembleWord ((c :: cs).takeWhile (! isBlank ·)) (operandTexts ((c :: cs).dropWhile (! isBlank ·))) with
    | .ok i => .ok (some i)
    | .error e => .error e

/-- SET_RANGE as a host issues it, for a range number 1..4 (here 0..3), with its parameter `RANGE_CODE` (30_encoding.md
R74, D12; notes/assumptions/13.md). -/
def hostSetRange (rangeCode : Fin 4 → BitVec 2) (range : Fin 4) : Instr := .setRange (rangeCode range)

/-- SET_GAIN as a host issues it, for gain ×5 or ×1, with its parameter `GAIN_CODE` (30_encoding.md R74, D13). -/
def hostSetGain (gainCode : Bool → BitVec 1) (timesFive : Bool) : Instr := .setGain (gainCode timesFive)

/-- The state after one command. No command stops the machine, so the second case never arises. -/
def issue (i : Instr) (s : State) : State :=
  match exec i s with
  | .next t => t
  | _ => s

/-- The last response was OK. -/
def answeredOk (s : State) : Bool :=
  match s.response with
  | some r => r.status = .ok
  | none => false

/-- The host issues each command in turn and stops at the first response that is not OK (30_encoding.md R91). -/
def issueAll : List Instr → State → State
  | [], s => s
  | i :: rest, s => if answeredOk (issue i s) then issueAll rest (issue i s) else issue i s

/-- The commands BEGIN_SWEEP expands to (30_encoding.md R91). -/
def beginSweep : List Instr := [.standby, .init, .start]

/-- The last response has `rsp_status` OK and `rsp_ctl` Sweeping (30_encoding.md R92). -/
def stillSweeping (s : State) : Bool :=
  match s.response with
  | some r => r.status = .ok && r.ctl = .sweeping
  | none => false

/-- POLL repeated while the last response is OK and Sweeping, by a host that gives up after `patience` POLLs
(30_encoding.md R92; notes/assumptions/18.md). -/
def pollWhileSweeping : Nat → State → State
  | 0, s => s
  | patience + 1, s => if stillSweeping s then pollWhileSweeping patience (issue .poll s) else s

/-- RUN_SWEEP: BEGIN_SWEEP, then POLL repeated (30_encoding.md R92). -/
def runSweep (patience : Nat) (s : State) : State := pollWhileSweeping patience (issueAll beginSweep s)

end Sys2Proof.Machine
end

