-- ==== Sys2Proof/Safety.lean ====
section
/-! DEFINITION. The terms in which claims about the machine are stated: runs of steps and what they put out, the answers a
state holds for its coming transactions, the legality table (42_sweep_controller.md R141), the device's address map as
rights (20_memory.md R51, 10_state.md R38), and the invariant of reachable states (10_state.md R42). -/

namespace Sys2Proof.Machine

/-! ### Answers and transactions -/

/-- The device's answer to the `k`-th transaction from `s`, counting from 0, if that transaction is `req`. -/
def answerAt (s : State) (k : Nat) (req : BusRequest) : BusAnswer :=
  match s.answers[k]? with
  | some answer => answer
  | none => Config.deviceAnswer (s.draws + k) req

/-- `s` after a step's transactions `events`: as many answers used up, and the trace of the step is `events`. -/
def withTrace (s : State) (events : List BusEvent) : State :=
  { s with answers := s.answers.drop events.length, draws := s.draws + events.length, trace := events }

/-- The `k`-th transaction from `s` reads `byte` at `addr`. -/
def reads (s : State) (k : Nat) (addr : Addr) (byte : Byte) : Prop := answerAt s k (.read addr) = .ack byte

/-- The `k`-th transaction from `s`, a read of `addr`, fails. -/
def readFails (s : State) (k : Nat) (addr : Addr) : Prop := answerAt s k (.read addr) = .ioError

/-- The `k`-th transaction from `s`, a write of `byte` to `addr`, succeeds. -/
def writes (s : State) (k : Nat) (addr : Addr) (byte : Byte) : Prop := answerAt s k (.write addr byte) ≠ .ioError

/-- The `k`-th transaction from `s`, a write of `byte` to `addr`, fails. -/
def writeFails (s : State) (k : Nat) (addr : Addr) (byte : Byte) : Prop :=
  answerAt s k (.write addr byte) = .ioError

/-- The address of a transaction. -/
def eventAddr : BusEvent → Addr
  | .read addr _ => addr
  | .write addr _ _ => addr

/-- The transaction failed. -/
def eventFailed : BusEvent → Bool
  | .read _ byte => byte.isNone
  | .write _ _ ok => !ok

/-- A transaction the block may issue: a read of CR1, CR2, status or data, or a write of CR1, CR2 or of a frequency,
increment-count or settling register (20_memory.md R51, R52; 10_state.md R38). -/
def eventListed : BusEvent → Bool
  | .read addr _ => addr == 0x80 || addr == 0x81 || addr == 0x8F || (0x94 ≤ addr.toNat && addr.toNat ≤ 0x97)
  | .write addr _ _ => 0x80 ≤ addr.toNat && addr.toNat ≤ 0x8B

/-- What a control register's shadow is after the transactions `events`, if it was `shadow` before (10_state.md R37). -/
def shadowAfter (addr : Addr) (shadow : Option Byte) (events : List BusEvent) : Option Byte :=
  events.foldl
    (fun now event =>
      match event with
      | .read _ _ => now
      | .write a byte ok => if a = addr then (if ok then some byte else none) else now)
    shadow

/-! ### Commands -/

/-- A frame's opcode is reserved (30_encoding.md R78). -/
def reservedOpcode (op : BitVec 8) : Bool :=
  op.toNat == 0x00 || (0x06 ≤ op.toNat && op.toNat ≤ 0x0F) || (0x14 ≤ op.toNat && op.toNat ≤ 0x1F) || 0x21 ≤ op.toNat

/-- Bit `k` of a frame with opcode `op` is used: the opcode's own bits and its format's operand bits (30_encoding.md R72
to R77). -/
def frameBitUsed (op : BitVec 8) (k : Nat) : Bool :=
  k < 8 ||
  match op.toNat with
  | 0x01 => k < 72
  | 0x02 => k < 125 || (136 ≤ k && k < 152)
  | 0x03 => k < 10
  | 0x04 => k < 9
  | 0x05 => k < 9
  | _ => false

/-- The legality table (42_sweep_controller.md R141). -/
def legal (i : Instr) (ctl : Ctl) (configured : Bool) : Bool :=
  match i, ctl with
  | .encode _ _, _ => true
  | .configure _ _ _ _ _ _ _, .idle => true
  | .configure _ _ _ _ _ _ _, .standby => true
  | .configure _ _ _ _ _ _ _, _ => false
  | .setRange _, .idle => true
  | .setRange _, .standby => true
  | .setRange _, _ => false
  | .setGain _, .idle => true
  | .setGain _, .standby => true
  | .setGain _, _ => false
  | .setClockSource _, .idle => true
  | .setClockSource _, .standby => true
  | .setClockSource _, _ => false
  | .standby, _ => true
  | .powerDown, .faulted => false
  | .powerDown, _ => true
  | .init, .standby => configured
  | .init, _ => false
  | .start, .initialized => true
  | .start, _ => false
  | .poll, .sweeping => true
  | .poll, _ => false

/-- The control register a command reads, then writes, with the byte it writes for a byte read (41_control_register.md
R121, R124, R125, R126; 42_sweep_controller.md R142 to R145). POLL is left to its own statements. -/
def registerChange : Instr → Option (Addr × (Byte → Byte))
  | .setRange c => some (0x80, fun v => (v &&& 0xF9) ||| (c.setWidth 8 <<< 1))
  | .setGain c => some (0x80, fun v => (v &&& 0xFE) ||| c.setWidth 8)
  | .setClockSource c => some (0x81, fun v => (v &&& 0xF7) ||| (c.setWidth 8 <<< 3))
  | .standby => some (0x80, fun v => (v &&& 0x07) ||| 0xB0)
  | .powerDown => some (0x80, fun v => (v &&& 0x07) ||| 0xA0)
  | .init => some (0x80, fun v => (v &&& 0x07) ||| 0x10)
  | .start => some (0x80, fun v => (v &&& 0x07) ||| 0x20)
  | .encode _ _ => none
  | .configure _ _ _ _ _ _ _ => none
  | .poll => none

/-- The response of a rejection in state `b`: the error and its information, nothing else set (60_exceptions.md R208). -/
def rejection (status : Status) (info : BitVec 16) (b : Block) : Response :=
  { status := status, ctl := b.ctl, info := info }

/-- The block after a fault of a command that is not CONFIGURE (60_exceptions.md R207). -/
def faulted (code : FaultCode) (info : BitVec 16) (b : Block) : Block :=
  { b with ctl := .faulted, sub := .none, faultCode := code, faultInfo := info }

/-- The response to a fault (60_exceptions.md R207). -/
def faultResponse (status : Status) (info : BitVec 16) : Response :=
  { status := status, ctl := .faulted, info := info }

/-- The bytes of a SweepProgram in the order CONFIGURE writes them (40_encoder_and_program.md R107, with 30_encoding.md R86,
R87, R88). -/
def sweepProgramBytes (startCode incCode : BitVec 24) (ninc : BitVec 9) (settle : BitVec 10) (mult : BitVec 2) :
    List (Addr × Byte) :=
  [(0x82, startCode.extractLsb' 16 8), (0x83, startCode.extractLsb' 8 8), (0x84, startCode.extractLsb' 0 8),
   (0x85, incCode.extractLsb' 16 8), (0x86, incCode.extractLsb' 8 8), (0x87, incCode.extractLsb' 0 8),
   (0x88, 0#7 ++ ninc.extractLsb' 8 1), (0x89, ninc.extractLsb' 0 8),
   (0x8A, 0#4 ++ mult ++ settle.extractLsb' 8 2), (0x8B, settle.extractLsb' 0 8)]

/-- The transactions `pre`, all reads, succeed from `s` on with the bytes they name. -/
def readsAll (s : State) (pre : List (Addr × Byte)) : Prop :=
  ∀ (j : Nat) (x : Addr × Byte), pre[j]? = some x → reads s j x.1 x.2

/-- The transactions `pre`, all writes, succeed from `s` on. -/
def writesAll (s : State) (pre : List (Addr × Byte)) : Prop :=
  ∀ (j : Nat) (x : Addr × Byte), pre[j]? = some x → writes s j x.1 x.2

/-- The events of the successful reads `pre`. -/
def readEvents (pre : List (Addr × Byte)) : List BusEvent := pre.map fun x => .read x.1 (some x.2)

/-- The events of the successful writes `pre`. -/
def writeEvents (pre : List (Addr × Byte)) : List BusEvent := pre.map fun x => .write x.1 x.2 true

/-- The five reads of a POLL that sees a sample, with the bytes the device answers (43_measurement_poller.md R166). -/
def samplePoll (st rh rl ih il : Byte) : List (Addr × Byte) :=
  [(0x8F, st), (0x94, rh), (0x95, rl), (0x96, ih), (0x97, il)]

/-- The CR1 patterns a command may write as a mode (41_control_register.md R120); none for the others. -/
def modePatternsOf : Instr → List Byte
  | .standby => [0xB0]
  | .powerDown => [0xA0]
  | .init => [0x10]
  | .start => [0x20]
  | .poll => [0x40, 0x30]
  | .encode _ _ => []
  | .configure _ _ _ _ _ _ _ => []
  | .setRange _ => []
  | .setGain _ => []
  | .setClockSource _ => []

/-- The bound of 42_sweep_controller.md R148: `(p_ninc + 1) · p_rep · POLL_BUDGET`. -/
def pollBound (s : State) : Nat := (s.blk.pNinc.toNat + 1) * s.blk.pRep.toNat * s.pollBudget.toNat

/-! ### Runs -/

/-- The state after one step. A step never stops, so the second case never arises. -/
def stepped (s : State) : State :=
  match step s with
  | .next t => t
  | _ => s

/-- The state after `k` steps. -/
def runFor : Nat → State → State
  | 0, s => s
  | k + 1, s => runFor k (stepped s)

/-- The states after each of `k` steps, in order. -/
def visited : Nat → State → List State
  | 0, _ => []
  | k + 1, s => stepped s :: visited k (stepped s)

/-- The responses that carry a sample, in order (43_measurement_poller.md R167). -/
def samplesOf (states : List State) : List Response :=
  (states.filterMap State.response).filter Response.sampleValid

/-- The responses that carry a point, in order (44_averager.md R183). -/
def pointsOf (states : List State) : List Response :=
  (states.filterMap State.response).filter Response.pointValid

/-- How many successful writes of CR1 with mode `m` the steps made (30_encoding.md R82). -/
def modeWrites (m : Mode) (states : List State) : Nat :=
  (states.map fun s => s.trace.countP fun event =>
    match event with
    | .write addr byte true => addr = 0x80 ∧ modeOf byte = some m
    | _ => false).sum

/-! ### The invariant of reachable states -/

/-- The controller is in a state from which a program must be loaded (10_state.md R42 (a), (b)). -/
abbrev programNeeded (b : Block) : Prop := b.ctl = .initialized ∨ b.ctl = .sweeping ∨ b.ctl = .complete

/-- 10_state.md R42 (a), (b): a program is loaded where it is needed, and the index lies in its range. -/
abbrev indexInRange (b : Block) : Prop :=
  programNeeded b → b.configured = true ∧ b.idx.toNat ≤ b.pNinc.toNat

/-- 10_state.md R42 (c): in Sweeping the sample count and the empty-poll count are below their bounds. -/
abbrev countsInRange (s : State) : Prop :=
  s.blk.ctl = .sweeping → s.blk.rc.toNat < s.blk.pRep.toNat ∧ s.blk.failPolls.toNat < s.pollBudget.toNat

/-- 10_state.md R42 (d): the sums are those of at most `rc` samples. -/
abbrev sumsInRange (b : Block) : Prop :=
  (-(32768 * (b.rc.toNat : Int)) ≤ b.sumRe.toInt ∧ b.sumRe.toInt ≤ 32768 * (b.rc.toNat : Int)) ∧
  (-(32768 * (b.rc.toNat : Int)) ≤ b.sumIm.toInt ∧ b.sumIm.toInt ≤ 32768 * (b.rc.toNat : Int))

/-- 10_state.md R42 (e), (f): the sub-phase belongs to Sweeping, the fault record to Faulted. -/
abbrev recordsMatchState (b : Block) : Prop :=
  (b.ctl ≠ .sweeping → b.sub = .none) ∧ (b.ctl = .faulted ↔ b.faultCode ≠ .none)

/-- 10_state.md R42 (g): outside a sweep the datapath is clear, but for the index of the last point in Complete. -/
abbrev datapathClear (b : Block) : Prop :=
  (b.ctl = .idle ∨ b.ctl = .standby ∨ b.ctl = .initialized → b.idx = 0 ∧ b.rc = 0 ∧ b.sumRe = 0 ∧ b.sumIm = 0) ∧
  (b.ctl = .complete → b.idx = b.pNinc ∧ b.rc = 0 ∧ b.sumRe = 0 ∧ b.sumIm = 0)

/-- 10_state.md R25, R26: the multiplier code is never the reserved one; while `configured`, the repeat target is not 0
and the codes are those of the program's frequencies. -/
abbrev programLegal (b : Block) : Prop :=
  b.pMult ≠ 0b10 ∧
  (b.configured = true → b.pRep ≠ 0 ∧ encodeFrequency b.pStart b.pClk = some b.pStartCode ∧
    encodeFrequency b.pInc b.pClk = some b.pIncCode)

/-- 10_state.md R35: the fault detail has the form its fault code gives it. -/
abbrev faultRecordLegal (b : Block) : Prop :=
  (b.faultCode = .none → b.faultInfo = 0) ∧
  (b.faultCode = .bus → b.faultInfo.toNat ≤ 0x1FF) ∧
  (b.faultCode = .unexpectedStatus → 0x200 ≤ b.faultInfo.toNat ∧ b.faultInfo.toNat ≤ 0x2FF) ∧
  (b.faultCode = .sweepTimeout → b.faultInfo = 0)

/-- The invariant of reachable states: 10_state.md R42 (a) to (g), and beside it what R25, R26 and R35 say of the program
registers and the fault record, and that the parameter `POLL_BUDGET` lies in its range (00_scope.md R5). -/
structure Inv (s : State) : Prop where
  budgetPositive : s.pollBudget ≠ 0
  indexInRange : indexInRange s.blk
  countsInRange : countsInRange s
  sumsInRange : sumsInRange s.blk
  recordsMatchState : recordsMatchState s.blk
  datapathClear : datapathClear s.blk
  programLegal : programLegal s.blk
  faultRecordLegal : faultRecordLegal s.blk

/-- A sweep has just begun: START was the last command that changed the block (42_sweep_controller.md R145, R146). -/
def sweepBegun (s : State) : Prop :=
  s.blk.ctl = .sweeping ∧ s.blk.idx = 0 ∧ s.blk.rc = 0 ∧ s.blk.sumRe = 0 ∧ s.blk.sumIm = 0

end Sys2Proof.Machine
end

