-- ==== Sys2Proof/Certificates/Slice0/Obligations.lean ====
section
/-! DEFINITION. What is claimed of the machine, one `def Obligations.<Name> : Prop` per claim. The claims speak of the
machine's meanings, steps and state; the values they name are written out from the rules they cite, not taken from the
meanings' own helpers, wherever that is possible. Claims of what a command does give the whole next state, so that what the
command leaves unchanged is part of the claim. The device's answers are the state's (`answerAt`): the fixed ones first, free
values behind them. -/

open Sys2Proof Sys2Proof.Machine

/-! ### Encoding of commands and responses -/

/-- Decoding what the encoder made gives the command back, with every operand at every value (30_encoding.md R70 to R76). -/
def Obligations.DecodeOfEncodeReturnsTheCommand : Prop :=
  ∀ i : Instr, decode (encode i) = .ok i

/-- The encoder keeps every used bit of a frame that decodes, and leaves the unused ones 0 (30_encoding.md R72 to R77). -/
def Obligations.EncodeOfDecodeKeepsTheUsedBits : Prop :=
  ∀ (f : Frame) (i : Instr), decode f = .ok i →
    ∀ k < 168, (encode i).getLsbD k = (frameBitUsed (f.extractLsb' 0 8) k && f.getLsbD k)

/-- Bits that a command's format does not use never change what the frame does (30_encoding.md R77). -/
def Obligations.UnusedFrameBitsChangeNothing : Prop :=
  ∀ (f g : Frame), (∀ k < 168, frameBitUsed (f.extractLsb' 0 8) k = true → f.getLsbD k = g.getLsbD k) →
    decode f = decode g ∧
    ∀ (s : State) (rest : List HostInput),
      step { s with inputs := .command f :: rest } = step { s with inputs := .command g :: rest }

/-- Frames written out by the spec decode to the commands they stand for (95_test_vectors.md). -/
def Obligations.SpecFramesDecode : Prop :=
  decode 0x00000000000000000000000000FFFB400000753001 = .ok (.encode 30000 16776000) ∧
  decode 0x0000000200081E0300FFFB400000000A0000753002 = .ok (.configure 30000 10 16776000 3 15 0b01 2) ∧
  decode 0x000000000000000000000000000000000000000303 = .ok (.setRange 3) ∧
  decode 0x000000000000000000000000000000000000000104 = .ok (.setGain 1) ∧
  decode 0x000000000000000000000000000000000000000105 = .ok (.setClockSource 1) ∧
  decode 0x000000000000000000000000000000000000000010 = .ok .standby ∧
  decode 0x000000000000000000000000000000000000000020 = .ok .poll

/-- A frame with a reserved opcode answers IllegalCommand, issues no transaction and changes no state (30_encoding.md
R78). -/
def Obligations.ReservedOpcodesAreRefused : Prop :=
  ∀ (s : State) (f : Frame) (rest : List HostInput), s.inputs = .command f :: rest →
    reservedOpcode (f.extractLsb' 0 8) = true →
    step s = .next { s with
      inputs := rest
      trace := []
      response := some { status := .illegalCommand, ctl := s.blk.ctl,
                         info := (ctlCode s.blk.ctl ++ f.extractLsb' 0 8).setWidth 16 } }

/-- Every field of the packed response lies where the layout puts it, and the two coded fields have the codes of their
tables (30_encoding.md R79, R80; 10_state.md R21). -/
def Obligations.PackedResponseLayout : Prop :=
  ∀ r : Response,
    (packResponse r).extractLsb' 0 3 = statusCode r.status ∧
    (packResponse r).extractLsb' 3 3 = ctlCode r.ctl ∧
    (packResponse r).getLsbD 6 = r.sampleValid ∧
    (packResponse r).getLsbD 7 = r.pointValid ∧
    (packResponse r).extractLsb' 8 16 = r.info ∧
    (packResponse r).extractLsb' 24 24 = r.code ∧
    (packResponse r).extractLsb' 48 16 = r.re ∧
    (packResponse r).extractLsb' 64 16 = r.im ∧
    (packResponse r).extractLsb' 80 9 = r.ptIdx ∧
    (packResponse r).extractLsb' 89 41 = r.ptFreq ∧
    (packResponse r).extractLsb' 130 32 = r.ptSumRe ∧
    (packResponse r).extractLsb' 162 32 = r.ptSumIm ∧
    (packResponse r).extractLsb' 194 16 = r.ptCount ∧
    statusCode .ok = 0 ∧ statusCode .ioError = 1 ∧ statusCode .frequencyOutOfRange = 2 ∧ statusCode .sweepTimeout = 3 ∧
    statusCode .configInvalid = 4 ∧ statusCode .illegalCommand = 5 ∧
    ctlCode .idle = 0 ∧ ctlCode .standby = 1 ∧ ctlCode .initialized = 2 ∧ ctlCode .sweeping = 3 ∧
    ctlCode .complete = 4 ∧ ctlCode .faulted = 5

/-! ### The step -/

/-- A frame that decodes is run by `exec`, with the frame taken off the command port. -/
def Obligations.StepRunsTheDecodedCommand : Prop :=
  ∀ (s : State) (f : Frame) (rest : List HostInput) (i : Instr),
    s.inputs = .command f :: rest → decode f = .ok i → step s = exec i { s with inputs := rest }

/-- Every command, legal or not, known or not, answers a next state with one response (30_encoding.md R79), and the host's
later inputs wait. -/
def Obligations.EveryFrameIsAnswered : Prop :=
  ∀ (s : State) (f : Frame) (rest : List HostInput), s.inputs = .command f :: rest →
    ∃ (t : State) (r : Response), step s = .next t ∧ t.response = some r ∧ r.ctl = t.blk.ctl ∧ t.inputs = rest

/-- Where the host sends nothing the block state stays (20_memory.md R62). That the outputs of the step before are cleared
is the model's choice (notes/assumptions/3.md, 4.md). -/
def Obligations.WithoutInputTheBlockWaits : Prop :=
  ∀ s : State, s.inputs = [] → step s = .next { s with trace := [], response := none }

/-- The machine after reset holds the block's reset values, and a reset sent by the host, in every state, sets every field
of the block to them with no transaction (70_reset_and_hazards.md R230, R231; 10_state.md R40). -/
def Obligations.ResetSetsEveryField : Prop :=
  ∀ (s : State) (rest : List HostInput) (b : Block),
    b = { ctl := .idle, sub := .none, configured := false, pStart := 0, pInc := 0, pClk := 0, pNinc := 0, pSettle := 0,
          pMult := 0, pRep := 0, pStartCode := 0, pIncCode := 0, idx := 0, rc := 0, sumRe := 0, sumIm := 0,
          failPolls := 0, faultCode := .none, faultInfo := 0, cr1Shadow := none, cr2Shadow := none } →
    State.reset.blk = b ∧
    (s.inputs = .reset :: rest →
      step s = .next { s with inputs := rest, trace := [], response := none, blk := b })

/-- The state port shows the whole block state: blocks that differ are told apart (10_state.md R41). -/
def Obligations.StatePortTellsBlocksApart : Prop :=
  ∀ s t : State, statePort s = statePort t → s.blk = t.blk

/-- A command uses up one device answer per transaction, in order, and leaves the host's inputs and the poll budget alone
(20_memory.md R58, R61; the fields are the model's own, notes/assumptions/1.md, 2.md, 3.md). -/
def Obligations.TransactionsUseUpAnswersInOrder : Prop :=
  ∀ (i : Instr) (s t : State), exec i s = .next t →
    t.answers = s.answers.drop t.trace.length ∧ t.draws = s.draws + t.trace.length ∧ t.inputs = s.inputs ∧
    t.pollBudget = s.pollBudget

/-! ### The frequency encoder and ENCODE -/

/-- An accepted code is the one integer strictly nearest to `freq · 2^31 / clk`: no tie arises, and nothing is clamped
(40_encoder_and_program.md R100, R101, R104). -/
def Obligations.EncodeGivesTheStrictlyNearestCode : Prop :=
  ∀ (freq clk : BitVec 32) (code : BitVec 24),
    encodeFrequency freq clk = some code ↔
      clk ≠ 0 ∧ 2 * code.toNat * clk.toNat < freq.toNat * 2 ^ 32 + clk.toNat ∧
        freq.toNat * 2 ^ 32 < 2 * code.toNat * clk.toNat + clk.toNat

/-- A pair is rejected, with no code, exactly when the clock is 0 or the rounded code exceeds the ceiling, that is when
`freq · 2^31 / clk` is at least 0xFFFFFF + ½; from 0xFFFFFF up to there it is accepted and rounds to 0xFFFFFF
(40_encoder_and_program.md R101, R100). -/
def Obligations.EncodeRejectsExactlyBeyondTheCeiling : Prop :=
  ∀ freq clk : BitVec 32,
    (encodeFrequency freq clk = none ↔ clk = 0 ∨ encodeQuotient freq clk > 0xFFFFFF) ∧
    (encodeFrequency freq clk = none ↔ clk = 0 ∨ 0x1FFFFFF * clk.toNat ≤ freq.toNat * 2 ^ 32) ∧
    (0x1FFFFFE * clk.toNat ≤ freq.toNat * 2 ^ 32 → freq.toNat * 2 ^ 32 < 0x1FFFFFF * clk.toNat →
      encodeFrequency freq clk = some 0xFFFFFF)

/-- Decoding an accepted frequency's code gives it back within half a code step (40_encoder_and_program.md R103). -/
def Obligations.DecodedCodeIsWithinHalfAStep : Prop :=
  ∀ (freq clk : BitVec 32) (code : BitVec 24), encodeFrequency freq clk = some code →
    |decodeFrequency code clk - (freq.toNat : Rat)| ≤ (clk.toNat : Rat) / 2 ^ 32

/-- The encoder is non-decreasing, so the accepted frequencies form an interval; frequency 0 has code 0; at the clock
16,776,000 the interval ends at 131,062 (40_encoder_and_program.md R105). -/
def Obligations.EncodeIsMonotone : Prop :=
  (∀ (freq freq' clk : BitVec 32) (code' : BitVec 24), freq.toNat ≤ freq'.toNat →
    encodeFrequency freq' clk = some code' →
    ∃ code, encodeFrequency freq clk = some code ∧ code.toNat ≤ code'.toNat) ∧
  (∀ clk : BitVec 32, clk ≠ 0 → encodeFrequency 0 clk = some 0) ∧
  (∀ freq : BitVec 32, (encodeFrequency freq 16776000).isSome = true ↔ freq.toNat ≤ 131062) ∧
  encodeFrequency 131062 16776000 = some 0xFFFFC0

/-- ENCODE answers the rounded code, or FrequencyOutOfRange with information 0 when the clock is 0 or the code exceeds the
ceiling. It does so in every state, without a transaction, and writes no state (40_encoder_and_program.md R106). -/
def Obligations.EncodeCommandAnswersTheRoundedCode : Prop :=
  ∀ (freq clk : BitVec 32) (s : State),
    exec (.encode freq clk) s = .next { s with
      trace := []
      response := some
        (if clk = 0 ∨ (freq.toNat * 2 ^ 32 + clk.toNat) / (2 * clk.toNat) > 0xFFFFFF then
          { status := .frequencyOutOfRange, ctl := s.blk.ctl, info := 0 }
        else
          { status := .ok, ctl := s.blk.ctl,
            code := BitVec.ofNat 24 ((freq.toNat * 2 ^ 32 + clk.toNat) / (2 * clk.toNat)) }) }

/-! ### CONFIGURE -/

/-- CONFIGURE in Idle or Standby, with a legal program and ten writes that succeed, writes the ten bytes in order, loads the
program registers and sets `configured`; nothing else changes (40_encoder_and_program.md R107). -/
def Obligations.ConfigureLoadsTheProgram : Prop :=
  ∀ (s : State) (start inc clk : BitVec 32) (ninc : BitVec 9) (settle : BitVec 10) (mult : BitVec 2) (rep : BitVec 16)
    (startCode incCode : BitVec 24),
    s.blk.ctl = .idle ∨ s.blk.ctl = .standby →
    encodeFrequency start clk = some startCode → encodeFrequency inc clk = some incCode → mult ≠ 0b10 → rep ≠ 0 →
    writesAll s (sweepProgramBytes startCode incCode ninc settle mult) →
    exec (.configure start inc clk ninc settle mult rep) s = .next
      { withTrace s (writeEvents (sweepProgramBytes startCode incCode ninc settle mult)) with
        blk := { s.blk with
          pStart := start, pInc := inc, pClk := clk, pNinc := ninc, pSettle := settle, pMult := mult, pRep := rep,
          pStartCode := startCode, pIncCode := incCode, configured := true }
        response := some { status := .ok, ctl := s.blk.ctl } }

/-- CONFIGURE in Idle or Standby reports the first of its four checks that fails, before any transaction and with no change
of state (40_encoder_and_program.md R107, 60_exceptions.md R205, R208, R209). -/
def Obligations.ConfigureReportsTheFirstFailedCheck : Prop :=
  ∀ (s : State) (start inc clk : BitVec 32) (ninc : BitVec 9) (settle : BitVec 10) (mult : BitVec 2) (rep : BitVec 16),
    s.blk.ctl = .idle ∨ s.blk.ctl = .standby →
    encodeFrequency start clk = none ∨ encodeFrequency inc clk = none ∨ mult = 0b10 ∨ rep = 0 →
    exec (.configure start inc clk ninc settle mult rep) s = .next { s with
      trace := []
      response := some
        (if encodeFrequency start clk = none then rejection .frequencyOutOfRange 1 s.blk
        else if encodeFrequency inc clk = none then rejection .frequencyOutOfRange 2 s.blk
        else if mult = 0b10 then rejection .configInvalid 1 s.blk
        else rejection .configInvalid 2 s.blk) }

/-- A CONFIGURE whose write fails has written the bytes before it, in order, and no later one; the block enters Faulted,
clears `configured` and keeps the program registers (60_exceptions.md R201, R207, R210). -/
def Obligations.ConfigureStopsAtTheFailedWrite : Prop :=
  ∀ (s : State) (start inc clk : BitVec 32) (ninc : BitVec 9) (settle : BitVec 10) (mult : BitVec 2) (rep : BitVec 16)
    (startCode incCode : BitVec 24) (done later : List (Addr × Byte)) (addr : Addr) (byte : Byte),
    s.blk.ctl = .idle ∨ s.blk.ctl = .standby →
    encodeFrequency start clk = some startCode → encodeFrequency inc clk = some incCode → mult ≠ 0b10 → rep ≠ 0 →
    sweepProgramBytes startCode incCode ninc settle mult = done ++ (addr, byte) :: later →
    writesAll s done → writeFails s done.length addr byte →
    exec (.configure start inc clk ninc settle mult rep) s = .next
      { withTrace s (writeEvents done ++ [.write addr byte false]) with
        blk := { faulted .bus (0x0100 ||| addr.setWidth 16) s.blk with configured := false }
        response := some (faultResponse .ioError (0x0100 ||| addr.setWidth 16)) }

/-! ### The control registers -/

/-- SET_RANGE in Idle or Standby reads CR1 and writes it back with the range code in bits 2..1; of the block's fields only
the CR1 shadow changes (41_control_register.md R124). -/
def Obligations.SetRangeWritesTheRangeCode : Prop :=
  ∀ (s : State) (code : BitVec 2) (v : Byte),
    s.blk.ctl = .idle ∨ s.blk.ctl = .standby →
    reads s 0 0x80 v → writes s 1 0x80 ((v &&& 0xF9) ||| (code.setWidth 8 <<< 1)) →
    exec (.setRange code) s = .next
      { withTrace s [.read 0x80 (some v), .write 0x80 ((v &&& 0xF9) ||| (code.setWidth 8 <<< 1)) true] with
        blk := { s.blk with cr1Shadow := some ((v &&& 0xF9) ||| (code.setWidth 8 <<< 1)) }
        response := some { status := .ok, ctl := s.blk.ctl } }

/-- SET_GAIN in Idle or Standby reads CR1 and writes it back with the gain code in bit 0; of the block's fields only the CR1
shadow changes (41_control_register.md R125). -/
def Obligations.SetGainWritesTheGainCode : Prop :=
  ∀ (s : State) (code : BitVec 1) (v : Byte),
    s.blk.ctl = .idle ∨ s.blk.ctl = .standby →
    reads s 0 0x80 v → writes s 1 0x80 ((v &&& 0xFE) ||| code.setWidth 8) →
    exec (.setGain code) s = .next
      { withTrace s [.read 0x80 (some v), .write 0x80 ((v &&& 0xFE) ||| code.setWidth 8) true] with
        blk := { s.blk with cr1Shadow := some ((v &&& 0xFE) ||| code.setWidth 8) }
        response := some { status := .ok, ctl := s.blk.ctl } }

/-- SET_CLOCK_SOURCE in Idle or Standby reads CR2 and writes it back with the source in bit 3; of the block's fields only
the CR2 shadow changes (41_control_register.md R126). -/
def Obligations.SetClockSourceWritesTheSource : Prop :=
  ∀ (s : State) (src : BitVec 1) (v : Byte),
    s.blk.ctl = .idle ∨ s.blk.ctl = .standby →
    reads s 0 0x81 v → writes s 1 0x81 ((v &&& 0xF7) ||| (src.setWidth 8 <<< 3)) →
    exec (.setClockSource src) s = .next
      { withTrace s [.read 0x81 (some v), .write 0x81 ((v &&& 0xF7) ||| (src.setWidth 8 <<< 3)) true] with
        blk := { s.blk with cr2Shadow := some ((v &&& 0xF7) ||| (src.setWidth 8 <<< 3)) }
        response := some { status := .ok, ctl := s.blk.ctl } }

/-- Relative to the byte each reads, SET_RANGE changes only CR1[2:1], SET_GAIN only CR1[0] and SET_CLOCK_SOURCE only CR2[3],
and what they put there is their operand (41_control_register.md R127). -/
def Obligations.FieldCommandsChangeOnlyTheirBits : Prop :=
  (∀ (s t : State) (code : BitVec 2) (v w : Byte) (ok : Bool), exec (.setRange code) s = .next t →
    t.trace = [.read 0x80 (some v), .write 0x80 w ok] →
    w.extractLsb' 1 2 = code ∧ ∀ k < 8, k ≠ 1 → k ≠ 2 → w.getLsbD k = v.getLsbD k) ∧
  (∀ (s t : State) (code : BitVec 1) (v w : Byte) (ok : Bool), exec (.setGain code) s = .next t →
    t.trace = [.read 0x80 (some v), .write 0x80 w ok] →
    w.extractLsb' 0 1 = code ∧ ∀ k < 8, k ≠ 0 → w.getLsbD k = v.getLsbD k) ∧
  (∀ (s t : State) (src : BitVec 1) (v w : Byte) (ok : Bool), exec (.setClockSource src) s = .next t →
    t.trace = [.read 0x81 (some v), .write 0x81 w ok] →
    w.extractLsb' 3 1 = src ∧ ∀ k < 8, k ≠ 3 → w.getLsbD k = v.getLsbD k)

/-- Every CR1 write of a command that is not SET_RANGE or SET_GAIN keeps the low three bits of the byte read just before it
and has in bits 7..3 the pattern of a mode that this command issues (41_control_register.md R120 to R123). -/
def Obligations.ModeWritesKeepTheLowThreeBits : Prop :=
  ∀ (i : Instr) (s t : State) (before after : List BusEvent) (v w : Byte) (ok : Bool), exec i s = .next t →
    (∀ code, i ≠ .setRange code) → (∀ code, i ≠ .setGain code) →
    t.trace = before ++ .read 0x80 (some v) :: .write 0x80 w ok :: after →
    w &&& 0x07 = v &&& 0x07 ∧ w &&& 0xF8 ∈ modePatternsOf i

/-- After a command that changed a control register, the decoded view of the shadows shows what it put there (10_state.md
R36, R37). -/
def Obligations.DecodedViewShowsTheLastCommand : Prop :=
  ∀ (i : Instr) (s t : State), exec i s = .next t → t.trace ≠ [] →
    (∃ r, t.response = some r ∧ r.status = .ok) →
    match i with
    | .setRange code => (controlRegisterState t.blk).rangeCode = some code
    | .setGain code => (controlRegisterState t.blk).gainCode = some code
    | .setClockSource src => (controlRegisterState t.blk).clockSource = some src
    | .standby => (controlRegisterState t.blk).mode = some (some .standby)
    | .powerDown => (controlRegisterState t.blk).mode = some (some .powerDown)
    | .init => (controlRegisterState t.blk).mode = some (some .init)
    | .start => (controlRegisterState t.blk).mode = some (some .start)
    | .poll => controlRegisterState t.blk = controlRegisterState s.blk ∨
        (controlRegisterState t.blk).mode = some (some .repeat) ∨
        (controlRegisterState t.blk).mode = some (some .increment)
    | .encode _ _ => False
    | .configure _ _ _ _ _ _ _ => controlRegisterState t.blk = controlRegisterState s.blk

/-- A legal control-register command whose read fails issues no write, changes no shadow and enters Faulted
(60_exceptions.md R201, R207; 41_control_register.md R121). -/
def Obligations.FailedRegisterReadFaults : Prop :=
  ∀ (i : Instr) (s : State) (addr : Addr) (change : Byte → Byte),
    registerChange i = some (addr, change) → legal i s.blk.ctl s.blk.configured = true → readFails s 0 addr →
    exec i s = .next
      { withTrace s [.read addr none] with
        blk := faulted .bus (addr.setWidth 16) s.blk
        response := some (faultResponse .ioError (addr.setWidth 16)) }

/-- A legal control-register command whose write fails enters Faulted, and the register's shadow becomes unknown
(60_exceptions.md R201, R207; 10_state.md R37). -/
def Obligations.FailedRegisterWriteFaults : Prop :=
  ∀ (i : Instr) (s : State) (addr : Addr) (change : Byte → Byte) (v : Byte),
    registerChange i = some (addr, change) → legal i s.blk.ctl s.blk.configured = true →
    reads s 0 addr v → writeFails s 1 addr (change v) →
    exec i s = .next
      { withTrace s [.read addr (some v), .write addr (change v) false] with
        blk := { faulted .bus (0x0100 ||| addr.setWidth 16) s.blk with
          cr1Shadow := if addr = 0x80 then none else s.blk.cr1Shadow
          cr2Shadow := if addr = 0x80 then s.blk.cr2Shadow else none }
        response := some (faultResponse .ioError (0x0100 ||| addr.setWidth 16)) }

/-! ### The sweep controller -/

/-- STANDBY, legal in every state, writes the Standby pattern, goes to Standby and clears the sweep datapath and the fault
record; `configured` and the program registers stay (42_sweep_controller.md R142). -/
def Obligations.StandbyEntersStandby : Prop :=
  ∀ (s : State) (v : Byte), reads s 0 0x80 v → writes s 1 0x80 ((v &&& 0x07) ||| 0xB0) →
    exec .standby s = .next
      { withTrace s [.read 0x80 (some v), .write 0x80 ((v &&& 0x07) ||| 0xB0) true] with
        blk := { s.blk with
          ctl := .standby, sub := .none, idx := 0, rc := 0, sumRe := 0, sumIm := 0, failPolls := 0,
          faultCode := .none, faultInfo := 0, cr1Shadow := some ((v &&& 0x07) ||| 0xB0) }
        response := some { status := .ok, ctl := .standby } }

/-- POWER_DOWN, in every state but Faulted, writes the PowerDown pattern, goes to Idle and clears the sweep datapath
(42_sweep_controller.md R143). -/
def Obligations.PowerDownEntersIdle : Prop :=
  ∀ (s : State) (v : Byte), s.blk.ctl ≠ .faulted → reads s 0 0x80 v → writes s 1 0x80 ((v &&& 0x07) ||| 0xA0) →
    exec .powerDown s = .next
      { withTrace s [.read 0x80 (some v), .write 0x80 ((v &&& 0x07) ||| 0xA0) true] with
        blk := { s.blk with
          ctl := .idle, sub := .none, idx := 0, rc := 0, sumRe := 0, sumIm := 0, failPolls := 0,
          cr1Shadow := some ((v &&& 0x07) ||| 0xA0) }
        response := some { status := .ok, ctl := .idle } }

/-- INIT, in Standby with a program loaded, writes the Init pattern, goes to Initialized and clears the sweep datapath
(42_sweep_controller.md R144). -/
def Obligations.InitEntersInitialized : Prop :=
  ∀ (s : State) (v : Byte), s.blk.ctl = .standby → s.blk.configured = true → reads s 0 0x80 v →
    writes s 1 0x80 ((v &&& 0x07) ||| 0x10) →
    exec .init s = .next
      { withTrace s [.read 0x80 (some v), .write 0x80 ((v &&& 0x07) ||| 0x10) true] with
        blk := { s.blk with
          ctl := .initialized, sub := .none, idx := 0, rc := 0, sumRe := 0, sumIm := 0, failPolls := 0,
          cr1Shadow := some ((v &&& 0x07) ||| 0x10) }
        response := some { status := .ok, ctl := .initialized } }

/-- START, in Initialized, writes `(v & 0x07) | 0x20` and goes to Sweeping, sub-phase Started, with the empty-poll count
cleared (42_sweep_controller.md R145, 41_control_register.md R128). -/
def Obligations.StartEntersSweeping : Prop :=
  ∀ (s : State) (v : Byte), s.blk.ctl = .initialized → reads s 0 0x80 v → writes s 1 0x80 ((v &&& 0x07) ||| 0x20) →
    exec .start s = .next
      { withTrace s [.read 0x80 (some v), .write 0x80 ((v &&& 0x07) ||| 0x20) true] with
        blk := { s.blk with
          ctl := .sweeping, sub := .started, failPolls := 0, cr1Shadow := some ((v &&& 0x07) ||| 0x20) }
        response := some { status := .ok, ctl := .sweeping } }

/-- A command is rejected as IllegalCommand, with `{ctl, op}`, no transaction and no change of state, exactly where the
legality table marks it so (42_sweep_controller.md R141). -/
def Obligations.LegalityTableDecidesIllegalCommand : Prop :=
  ∀ (i : Instr) (s : State),
    (legal i s.blk.ctl s.blk.configured = false →
      exec i s = .next { s with
        trace := []
        response := some (rejection .illegalCommand ((ctlCode s.blk.ctl ++ (encode i).extractLsb' 0 8).setWidth 16) s.blk) }) ∧
    (legal i s.blk.ctl s.blk.configured = true →
      ∀ (t : State) (r : Response), exec i s = .next t → t.response = some r → r.status ≠ .illegalCommand)

/-- Two STANDBYs that succeed, one right after the other. If the second reads back the byte the first wrote, it writes that
byte again and leaves the block state as it is. Whatever it reads, it writes `(v & 0x07) | 0xB0`: the mode bits of the shadow
stay and the low three bits follow the device (42_sweep_controller.md R149). -/
def Obligations.StandbyTwiceChangesNothingMore : Prop :=
  ∀ (s t u : State) (v w x y : Byte), exec .standby s = .next t → exec .standby t = .next u →
    t.trace = [.read 0x80 (some v), .write 0x80 w true] → u.trace = [.read 0x80 (some x), .write 0x80 y true] →
    (x = w → y = w ∧ u.blk = t.blk) ∧
    y = ((x &&& 0x07) ||| 0xB0) ∧ t.blk.cr1Shadow = some w ∧ u.blk.cr1Shadow = some y ∧
    y.extractLsb' 4 4 = w.extractLsb' 4 4 ∧ y.extractLsb' 0 3 = x.extractLsb' 0 3

/-- A step leaves Faulted only by STANDBY or by a reset (60_exceptions.md R211, 70_reset_and_hazards.md R230). -/
def Obligations.OnlyStandbyAndResetLeaveFaulted : Prop :=
  ∀ s t : State, s.blk.ctl = .faulted → step s = .next t → t.blk.ctl ≠ .faulted →
    (∃ rest, s.inputs = .reset :: rest ∧ t.blk.ctl = .idle) ∨
    (∃ f rest, s.inputs = .command f :: rest ∧ decode f = .ok .standby ∧ t.blk.ctl = .standby ∧
      t.blk.faultCode = .none ∧ t.blk.faultInfo = 0)

/-- No command changes the controller state but by a transition of the table (42_sweep_controller.md R140). -/
def Obligations.ControllerChangesByTheTransitionTable : Prop :=
  ∀ (i : Instr) (s t : State), exec i s = .next t → t.blk.ctl ≠ s.blk.ctl →
    (i = .standby ∧ t.blk.ctl = .standby) ∨
    (i = .powerDown ∧ s.blk.ctl ≠ .faulted ∧ t.blk.ctl = .idle) ∨
    (i = .init ∧ s.blk.ctl = .standby ∧ s.blk.configured = true ∧ t.blk.ctl = .initialized) ∨
    (i = .start ∧ s.blk.ctl = .initialized ∧ t.blk.ctl = .sweeping ∧ t.blk.sub = .started) ∨
    (i = .poll ∧ s.blk.ctl = .sweeping ∧ t.blk.ctl = .complete ∧ s.blk.idx = s.blk.pNinc ∧
      s.blk.pRep.toNat ≤ s.blk.rc.toNat + 1) ∨
    (t.blk.ctl = .faulted ∧ t.trace ≠ [] ∧
      ∃ r, t.response = some r ∧ (r.status = .ioError ∨ (i = .poll ∧ r.status = .sweepTimeout)))

/-- Outside Idle and Standby the three bit-field commands answer IllegalCommand, with no effect, and whatever any command
writes there is CR1 with the range and gain bits of the byte read just before it; CR2 is not written
(70_reset_and_hazards.md R234). -/
def Obligations.RangeGainAndClockAreFixedAfterInit : Prop :=
  ∀ (i : Instr) (s t : State), s.blk.ctl ≠ .idle → s.blk.ctl ≠ .standby → exec i s = .next t →
    ((∃ c, i = .setRange c) ∨ (∃ c, i = .setGain c) ∨ (∃ c, i = .setClockSource c) →
      ∃ info, t = { s with trace := [], response := some (rejection .illegalCommand info s.blk) }) ∧
    (∀ (before after : List BusEvent) (addr : Addr) (w : Byte) (ok : Bool),
      t.trace = before ++ .write addr w ok :: after →
      addr = 0x80 ∧ ∃ v earlier, before = earlier ++ [.read 0x80 (some v)] ∧ w &&& 0x07 = v &&& 0x07)

/-! ### POLL -/

/-- An empty poll below the budget reads the status register alone and adds one to the empty-poll count
(43_measurement_poller.md R163). -/
def Obligations.EmptyPollCountsOne : Prop :=
  ∀ (s : State) (st : Byte), s.blk.ctl = .sweeping → reads s 0 0x8F st → st.getLsbD 1 = false →
    s.blk.failPolls.toNat + 1 < s.pollBudget.toNat →
    exec .poll s = .next
      { withTrace s [.read 0x8F (some st)] with
        blk := { s.blk with failPolls := s.blk.failPolls + 1 }
        response := some { status := .ok, ctl := .sweeping } }

/-- The empty poll that brings the count to the budget raises SweepTimeout, and the count keeps its value
(43_measurement_poller.md R163, 60_exceptions.md R204, R207). -/
def Obligations.EmptyPollAtTheBudgetTimesOut : Prop :=
  ∀ (s : State) (st : Byte), s.blk.ctl = .sweeping → reads s 0 0x8F st → st.getLsbD 1 = false →
    s.pollBudget.toNat ≤ s.blk.failPolls.toNat + 1 →
    exec .poll s = .next
      { withTrace s [.read 0x8F (some st)] with
        blk := faulted .sweepTimeout 0 s.blk
        response := some (faultResponse .sweepTimeout 0) }

/-- A sample that does not complete its point is added to the sums, Repeat is written in the same POLL, and the sample is
reported (43_measurement_poller.md R160, R162, R164; 44_averager.md R180). -/
def Obligations.SampleBelowTheTargetRepeats : Prop :=
  ∀ (s : State) (st rh rl ih il v : Byte), s.blk.ctl = .sweeping → readsAll s (samplePoll st rh rl ih il) →
    st.getLsbD 1 = true → s.blk.rc.toNat + 1 < s.blk.pRep.toNat →
    reads s 5 0x80 v → writes s 6 0x80 ((v &&& 0x07) ||| 0x40) →
    exec .poll s = .next
      { withTrace s (readEvents (samplePoll st rh rl ih il) ++
          [.read 0x80 (some v), .write 0x80 ((v &&& 0x07) ||| 0x40) true]) with
        blk := { s.blk with
          sumRe := s.blk.sumRe + (rh ++ rl).signExtend 32
          sumIm := s.blk.sumIm + (ih ++ il).signExtend 32
          rc := s.blk.rc + 1
          sub := .repeating
          failPolls := 0
          cr1Shadow := some ((v &&& 0x07) ||| 0x40) }
        response := some { status := .ok, ctl := .sweeping, sampleValid := true, re := rh ++ rl, im := ih ++ il } }

/-- A sample that completes a point before the last, with no completion reported, writes Increment, goes to the next index
and emits the point (43_measurement_poller.md R165, 44_averager.md R181, R183). -/
def Obligations.CompletedPointAdvances : Prop :=
  ∀ (s : State) (st rh rl ih il v : Byte), s.blk.ctl = .sweeping → readsAll s (samplePoll st rh rl ih il) →
    st.getLsbD 1 = true → s.blk.pRep.toNat ≤ s.blk.rc.toNat + 1 → st.getLsbD 2 = false → s.blk.idx ≠ s.blk.pNinc →
    reads s 5 0x80 v → writes s 6 0x80 ((v &&& 0x07) ||| 0x30) →
    exec .poll s = .next
      { withTrace s (readEvents (samplePoll st rh rl ih il) ++
          [.read 0x80 (some v), .write 0x80 ((v &&& 0x07) ||| 0x30) true]) with
        blk := { s.blk with
          idx := s.blk.idx + 1
          rc := 0
          sumRe := 0
          sumIm := 0
          sub := .advancing
          failPolls := 0
          cr1Shadow := some ((v &&& 0x07) ||| 0x30) }
        response := some
          { status := .ok, ctl := .sweeping, sampleValid := true, re := rh ++ rl, im := ih ++ il, pointValid := true,
            ptIdx := s.blk.idx
            ptFreq := BitVec.ofNat 41 (s.blk.pStart.toNat + s.blk.idx.toNat * s.blk.pInc.toNat)
            ptSumRe := s.blk.sumRe + (rh ++ rl).signExtend 32
            ptSumIm := s.blk.sumIm + (ih ++ il).signExtend 32
            ptCount := s.blk.pRep } }

/-- A sample that completes the last point, with completion reported, emits the point and goes to Complete with no mode
write (43_measurement_poller.md R165, 44_averager.md R181, R183). -/
def Obligations.LastPointCompletesTheSweep : Prop :=
  ∀ (s : State) (st rh rl ih il : Byte), s.blk.ctl = .sweeping → readsAll s (samplePoll st rh rl ih il) →
    st.getLsbD 1 = true → s.blk.pRep.toNat ≤ s.blk.rc.toNat + 1 → st.getLsbD 2 = true → s.blk.idx = s.blk.pNinc →
    exec .poll s = .next
      { withTrace s (readEvents (samplePoll st rh rl ih il)) with
        blk := { s.blk with
          ctl := .complete
          sub := .none
          rc := 0
          sumRe := 0
          sumIm := 0
          failPolls := 0 }
        response := some
          { status := .ok, ctl := .complete, sampleValid := true, re := rh ++ rl, im := ih ++ il, pointValid := true,
            ptIdx := s.blk.idx
            ptFreq := BitVec.ofNat 41 (s.blk.pStart.toNat + s.blk.idx.toNat * s.blk.pInc.toNat)
            ptSumRe := s.blk.sumRe + (rh ++ rl).signExtend 32
            ptSumIm := s.blk.sumIm + (ih ++ il).signExtend 32
            ptCount := s.blk.pRep } }

/-- A completed point at which the device's completion bit disagrees with the block's own count raises IOError with the raw
status; sample and point are discarded (43_measurement_poller.md R165, 60_exceptions.md R202, R207). -/
def Obligations.DisagreeingCompletionFaults : Prop :=
  ∀ (s : State) (st rh rl ih il : Byte), s.blk.ctl = .sweeping → readsAll s (samplePoll st rh rl ih il) →
    st.getLsbD 1 = true → s.blk.pRep.toNat ≤ s.blk.rc.toNat + 1 →
    (st.getLsbD 2 = true ∧ s.blk.idx ≠ s.blk.pNinc) ∨ (st.getLsbD 2 = false ∧ s.blk.idx = s.blk.pNinc) →
    exec .poll s = .next
      { withTrace s (readEvents (samplePoll st rh rl ih il)) with
        blk := faulted .unexpectedStatus (0x0200 ||| st.setWidth 16) s.blk
        response := some (faultResponse .ioError (0x0200 ||| st.setWidth 16)) }

/-- A POLL whose read of the status or of a data byte fails performs no later transaction, reports no sample and enters
Faulted with the datapath unchanged (43_measurement_poller.md R160, R166; 60_exceptions.md R201, R207). -/
def Obligations.FailedPollReadFaults : Prop :=
  ∀ (s : State) (done : List (Addr × Byte)) (addr : Addr) (later : List Addr), s.blk.ctl = .sweeping →
    done.map Prod.fst ++ addr :: later = [0x8F, 0x94, 0x95, 0x96, 0x97] →
    readsAll s done → (∀ st, done.head? = some (0x8F, st) → st.getLsbD 1 = true) → readFails s done.length addr →
    exec .poll s = .next
      { withTrace s (readEvents done ++ [.read addr none]) with
        blk := faulted .bus (addr.setWidth 16) s.blk
        response := some (faultResponse .ioError (addr.setWidth 16)) }

/-- A POLL whose mode write fails, or the read before it, enters Faulted: no sample, no point, the sums, the counts and the
index as before; the shadow becomes unknown if it was the write (43_measurement_poller.md R160, 60_exceptions.md R207). -/
def Obligations.FailedPollModeWriteFaults : Prop :=
  ∀ (s : State) (st rh rl ih il pattern : Byte), s.blk.ctl = .sweeping → readsAll s (samplePoll st rh rl ih il) →
    st.getLsbD 1 = true →
    (s.blk.rc.toNat + 1 < s.blk.pRep.toNat ∧ pattern = 0x40) ∨
      (s.blk.pRep.toNat ≤ s.blk.rc.toNat + 1 ∧ st.getLsbD 2 = false ∧ s.blk.idx ≠ s.blk.pNinc ∧ pattern = 0x30) →
    (readFails s 5 0x80 →
      exec .poll s = .next
        { withTrace s (readEvents (samplePoll st rh rl ih il) ++ [.read 0x80 none]) with
          blk := faulted .bus 0x0080 s.blk
          response := some (faultResponse .ioError 0x0080) }) ∧
    (∀ v, reads s 5 0x80 v → writeFails s 6 0x80 ((v &&& 0x07) ||| pattern) →
      exec .poll s = .next
        { withTrace s (readEvents (samplePoll st rh rl ih il) ++
            [.read 0x80 (some v), .write 0x80 ((v &&& 0x07) ||| pattern) false]) with
          blk := { faulted .bus 0x0180 s.blk with cr1Shadow := none }
          response := some (faultResponse .ioError 0x0180) })

/-- Status bits other than `valid` and `done` change nothing in what a POLL does, but for the raw status in the record of a
failed cross-check (43_measurement_poller.md R161). -/
def Obligations.OtherStatusBitsAreIgnored : Prop :=
  ∀ (s t t' : State) (st st' : Byte) (rest : List BusAnswer), s.answers = .ack st :: rest →
    st.getLsbD 1 = st'.getLsbD 1 → st.getLsbD 2 = st'.getLsbD 2 →
    exec .poll s = .next t → exec .poll { s with answers := .ack st' :: rest } = .next t' →
    t.blk.faultCode ≠ .unexpectedStatus →
    t'.blk = t.blk ∧ t'.response = t.response ∧ t'.trace.tail = t.trace.tail

/-- In a reachable state the sums a POLL stores or emits are the exact integer sums, and the frequency it emits is exact
(44_averager.md R180, R182, R183). -/
def Obligations.AccumulationIsExact : Prop :=
  ∀ (s t : State) (r : Response), Inv s → exec .poll s = .next t → t.response = some r → r.sampleValid = true →
    (r.pointValid = false →
      t.blk.sumRe.toInt = s.blk.sumRe.toInt + r.re.toInt ∧ t.blk.sumIm.toInt = s.blk.sumIm.toInt + r.im.toInt ∧
      t.blk.rc.toNat = s.blk.rc.toNat + 1) ∧
    (r.pointValid = true →
      r.ptSumRe.toInt = s.blk.sumRe.toInt + r.re.toInt ∧ r.ptSumIm.toInt = s.blk.sumIm.toInt + r.im.toInt ∧
      r.ptFreq.toNat = s.blk.pStart.toNat + s.blk.idx.toNat * s.blk.pInc.toNat ∧
      r.ptCount.toNat = s.blk.rc.toNat + 1)

/-! ### The whole machine -/

/-- Every step keeps the invariant of reachable states (10_state.md R42, with R25, R26, R35). -/
def Obligations.StepKeepsTheReachableInvariant : Prop :=
  ∀ s t : State, Inv s → step s = .next t → Inv t

/-- The machine after reset meets the invariant (10_state.md R40, R42). -/
def Obligations.ResetMeetsTheReachableInvariant : Prop :=
  Inv State.reset

/-- The invariant holds in every state reached from reset, whatever the host sends, the device answers and the budget is
(10_state.md R42). -/
def Obligations.ReachableStatesMeetTheInvariant : Prop :=
  ∀ (inputs : List HostInput) (answers : List BusAnswer) (budget : BitVec 32) (k : Nat), budget ≠ 0 →
    Inv (runFor k { State.reset with inputs := inputs, answers := answers, pollBudget := budget })

/-- No step issues a transaction outside the device's address map, reads a write-only register or writes a read-only one
(20_memory.md R52). -/
def Obligations.OnlyListedRegistersAreAccessed : Prop :=
  ∀ s t : State, step s = .next t → ∀ event ∈ t.trace, eventListed event = true

/-- Every write of a control register comes right after a successful read of the same register (20_memory.md R60). -/
def Obligations.ControlRegisterWritesFollowTheirRead : Prop :=
  ∀ (s t : State) (before after : List BusEvent) (addr : Addr) (w : Byte) (ok : Bool), step s = .next t →
    t.trace = before ++ .write addr w ok :: after → addr = 0x80 ∨ addr = 0x81 →
    ∃ earlier v, before = earlier ++ [.read addr (some v)]

/-- A failed transaction is the last of its command: nothing is tried again, nothing follows (60_exceptions.md R201, R210;
00_scope.md R10). -/
def Obligations.NothingFollowsAFailedTransaction : Prop :=
  ∀ (s t : State) (before after : List BusEvent) (event : BusEvent), step s = .next t →
    t.trace = before ++ event :: after → eventFailed event = true →
    after = [] ∧ t.blk.ctl = .faulted ∧ t.blk.faultCode = .bus

/-- The shadows after a command are those its writes leave, even where it raised an error (10_state.md R37). -/
def Obligations.ShadowsFollowTheWrites : Prop :=
  ∀ (i : Instr) (s t : State), exec i s = .next t →
    t.blk.cr1Shadow = shadowAfter 0x80 s.blk.cr1Shadow t.trace ∧
    t.blk.cr2Shadow = shadowAfter 0x81 s.blk.cr2Shadow t.trace

/-- No command but CONFIGURE writes `configured` or a program register (10_state.md R23 to R26). -/
def Obligations.OnlyConfigureWritesTheProgram : Prop :=
  ∀ (i : Instr) (s t : State), exec i s = .next t → (∀ a b c d e f g, i ≠ .configure a b c d e f g) →
    t.blk.configured = s.blk.configured ∧ t.blk.pStart = s.blk.pStart ∧ t.blk.pInc = s.blk.pInc ∧
    t.blk.pClk = s.blk.pClk ∧ t.blk.pNinc = s.blk.pNinc ∧ t.blk.pSettle = s.blk.pSettle ∧ t.blk.pMult = s.blk.pMult ∧
    t.blk.pRep = s.blk.pRep ∧ t.blk.pStartCode = s.blk.pStartCode ∧ t.blk.pIncCode = s.blk.pIncCode

/-- A command that answers a rejection has issued no transaction and changed no state (60_exceptions.md R208). -/
def Obligations.RejectionsChangeNothing : Prop :=
  ∀ (i : Instr) (s t : State) (r : Response), exec i s = .next t → t.response = some r →
    r.status = .illegalCommand ∨ r.status = .frequencyOutOfRange ∨ r.status = .configInvalid →
    t = { s with trace := [], response := some (rejection r.status r.info s.blk) }

/-- A command that answers IOError or SweepTimeout has entered Faulted and recorded what it answers; every field but `ctl`,
`sub`, the fault record, the shadows and CONFIGURE's `configured` is as before (60_exceptions.md R207). -/
def Obligations.FaultsAreRecordedAndPrecise : Prop :=
  ∀ (i : Instr) (s t : State) (r : Response), exec i s = .next t → t.response = some r →
    r.status = .ioError ∨ r.status = .sweepTimeout →
    r = faultResponse r.status t.blk.faultInfo ∧
    (r.status = .sweepTimeout ↔ t.blk.faultCode = .sweepTimeout) ∧ t.blk.faultCode ≠ .none ∧
    t.blk = { s.blk with
      ctl := .faulted
      sub := .none
      faultCode := t.blk.faultCode
      faultInfo := t.blk.faultInfo
      configured := s.blk.configured && opcodeOf i != 0x02
      cr1Shadow := t.blk.cr1Shadow
      cr2Shadow := t.blk.cr2Shadow }

/-- A sweep that ends in Complete, whatever else the host sent meanwhile, emitted exactly `p_ninc + 1` points with the
indices 0 to `p_ninc` in order, each the exact sum of its own `p_rep` samples, with `(p_ninc + 1) · (p_rep − 1)` Repeat
writes and `p_ninc` Increment writes (42_sweep_controller.md R147). -/
def Obligations.CompletedSweepCardinality : Prop :=
  ∀ (s : State) (k : Nat), Inv s → sweepBegun s → (∀ j < k, (runFor j s).blk.ctl = .sweeping) →
    (runFor k s).blk.ctl = .complete →
    (pointsOf (visited k s)).map (fun p => p.ptIdx.toNat) = List.range (s.blk.pNinc.toNat + 1) ∧
    (∀ p ∈ pointsOf (visited k s), p.ptCount = s.blk.pRep) ∧
    (samplesOf (visited k s)).length = (s.blk.pNinc.toNat + 1) * s.blk.pRep.toNat ∧
    (∀ (j : Nat) (p : Response), (pointsOf (visited k s))[j]? = some p →
      p.ptSumRe.toInt =
        ((((samplesOf (visited k s)).drop (j * s.blk.pRep.toNat)).take s.blk.pRep.toNat).map fun x => x.re.toInt).sum ∧
      p.ptSumIm.toInt =
        ((((samplesOf (visited k s)).drop (j * s.blk.pRep.toNat)).take s.blk.pRep.toNat).map fun x => x.im.toInt).sum) ∧
    modeWrites .repeat (visited k s) = (s.blk.pNinc.toNat + 1) * (s.blk.pRep.toNat - 1) ∧
    modeWrites .increment (visited k s) = s.blk.pNinc.toNat

/-- A host that keeps sending POLL sees the block leave Sweeping within `(p_ninc + 1) · p_rep · POLL_BUDGET` POLLs, whatever
the device answers; the POLLs it sends without a sample while the block stays in Sweeping are fewer than the budget. A host
that stops leaves the block in Sweeping (42_sweep_controller.md R148). -/
def Obligations.PollingLeavesSweepingInTime : Prop :=
  ∀ s : State, Inv s → s.blk.ctl = .sweeping →
    (∀ rest, s.inputs = List.replicate (pollBound s) (.command (encode .poll)) ++ rest →
      (∃ k, 1 ≤ k ∧ k ≤ pollBound s ∧ (runFor k s).blk.ctl ≠ .sweeping) ∧
      (∀ k ≤ pollBound s, (∀ j ≤ k, (runFor j s).blk.ctl = .sweeping) → samplesOf (visited k s) = [] →
        k < s.pollBudget.toNat)) ∧
    (s.inputs = [] → ∀ k, (runFor k s).blk.ctl = .sweeping)

/-- RUN_SWEEP, by a host patient enough for the bound, ends with an error or in Complete (30_encoding.md R91, R92,
42_sweep_controller.md R148). That the host's patience is bounded is the model's choice (notes/assumptions/18.md). -/
def Obligations.RunSweepEndsCompleteOrInError : Prop :=
  ∀ (s : State) (patience : Nat), Inv s → pollBound s ≤ patience →
    ∃ r, (runSweep patience s).response = some r ∧ (r.status ≠ .ok ∨ r.ctl = .complete)
end

