-- ==== Sys2Proof/Laws/State.lean ====
section
/-! SUPPORT. One lemma per field per update of the block and of the state, each true by unfolding the update once, so that
no later proof unfolds a record update. -/

namespace Sys2Proof.Machine

/-! ### clearDatapath -/

@[simp] theorem clearDatapath_ctl (b : Block) : (clearDatapath b).ctl = b.ctl := rfl
@[simp] theorem clearDatapath_sub (b : Block) : (clearDatapath b).sub = b.sub := rfl
@[simp] theorem clearDatapath_configured (b : Block) : (clearDatapath b).configured = b.configured := rfl
@[simp] theorem clearDatapath_pStart (b : Block) : (clearDatapath b).pStart = b.pStart := rfl
@[simp] theorem clearDatapath_pInc (b : Block) : (clearDatapath b).pInc = b.pInc := rfl
@[simp] theorem clearDatapath_pClk (b : Block) : (clearDatapath b).pClk = b.pClk := rfl
@[simp] theorem clearDatapath_pNinc (b : Block) : (clearDatapath b).pNinc = b.pNinc := rfl
@[simp] theorem clearDatapath_pSettle (b : Block) : (clearDatapath b).pSettle = b.pSettle := rfl
@[simp] theorem clearDatapath_pMult (b : Block) : (clearDatapath b).pMult = b.pMult := rfl
@[simp] theorem clearDatapath_pRep (b : Block) : (clearDatapath b).pRep = b.pRep := rfl
@[simp] theorem clearDatapath_pStartCode (b : Block) : (clearDatapath b).pStartCode = b.pStartCode := rfl
@[simp] theorem clearDatapath_pIncCode (b : Block) : (clearDatapath b).pIncCode = b.pIncCode := rfl
@[simp] theorem clearDatapath_idx (b : Block) : (clearDatapath b).idx = 0 := rfl
@[simp] theorem clearDatapath_rc (b : Block) : (clearDatapath b).rc = 0 := rfl
@[simp] theorem clearDatapath_sumRe (b : Block) : (clearDatapath b).sumRe = 0 := rfl
@[simp] theorem clearDatapath_sumIm (b : Block) : (clearDatapath b).sumIm = 0 := rfl
@[simp] theorem clearDatapath_failPolls (b : Block) : (clearDatapath b).failPolls = 0 := rfl
@[simp] theorem clearDatapath_faultCode (b : Block) : (clearDatapath b).faultCode = b.faultCode := rfl
@[simp] theorem clearDatapath_faultInfo (b : Block) : (clearDatapath b).faultInfo = b.faultInfo := rfl
@[simp] theorem clearDatapath_cr1Shadow (b : Block) : (clearDatapath b).cr1Shadow = b.cr1Shadow := rfl
@[simp] theorem clearDatapath_cr2Shadow (b : Block) : (clearDatapath b).cr2Shadow = b.cr2Shadow := rfl

/-! ### clearFault -/

@[simp] theorem clearFault_ctl (b : Block) : (clearFault b).ctl = b.ctl := rfl
@[simp] theorem clearFault_sub (b : Block) : (clearFault b).sub = b.sub := rfl
@[simp] theorem clearFault_configured (b : Block) : (clearFault b).configured = b.configured := rfl
@[simp] theorem clearFault_pStart (b : Block) : (clearFault b).pStart = b.pStart := rfl
@[simp] theorem clearFault_pInc (b : Block) : (clearFault b).pInc = b.pInc := rfl
@[simp] theorem clearFault_pClk (b : Block) : (clearFault b).pClk = b.pClk := rfl
@[simp] theorem clearFault_pNinc (b : Block) : (clearFault b).pNinc = b.pNinc := rfl
@[simp] theorem clearFault_pSettle (b : Block) : (clearFault b).pSettle = b.pSettle := rfl
@[simp] theorem clearFault_pMult (b : Block) : (clearFault b).pMult = b.pMult := rfl
@[simp] theorem clearFault_pRep (b : Block) : (clearFault b).pRep = b.pRep := rfl
@[simp] theorem clearFault_pStartCode (b : Block) : (clearFault b).pStartCode = b.pStartCode := rfl
@[simp] theorem clearFault_pIncCode (b : Block) : (clearFault b).pIncCode = b.pIncCode := rfl
@[simp] theorem clearFault_idx (b : Block) : (clearFault b).idx = b.idx := rfl
@[simp] theorem clearFault_rc (b : Block) : (clearFault b).rc = b.rc := rfl
@[simp] theorem clearFault_sumRe (b : Block) : (clearFault b).sumRe = b.sumRe := rfl
@[simp] theorem clearFault_sumIm (b : Block) : (clearFault b).sumIm = b.sumIm := rfl
@[simp] theorem clearFault_failPolls (b : Block) : (clearFault b).failPolls = b.failPolls := rfl
@[simp] theorem clearFault_faultCode (b : Block) : (clearFault b).faultCode = .none := rfl
@[simp] theorem clearFault_faultInfo (b : Block) : (clearFault b).faultInfo = 0 := rfl
@[simp] theorem clearFault_cr1Shadow (b : Block) : (clearFault b).cr1Shadow = b.cr1Shadow := rfl
@[simp] theorem clearFault_cr2Shadow (b : Block) : (clearFault b).cr2Shadow = b.cr2Shadow := rfl

/-! ### faultEntry -/

@[simp] theorem faultEntry_ctl (isConfigure : Bool) (code : FaultCode) (info : BitVec 16) (b : Block) : (faultEntry isConfigure code info b).ctl = .faulted := rfl
@[simp] theorem faultEntry_sub (isConfigure : Bool) (code : FaultCode) (info : BitVec 16) (b : Block) : (faultEntry isConfigure code info b).sub = .none := rfl
@[simp] theorem faultEntry_configured (isConfigure : Bool) (code : FaultCode) (info : BitVec 16) (b : Block) : (faultEntry isConfigure code info b).configured = (b.configured && !isConfigure) := rfl
@[simp] theorem faultEntry_pStart (isConfigure : Bool) (code : FaultCode) (info : BitVec 16) (b : Block) : (faultEntry isConfigure code info b).pStart = b.pStart := rfl
@[simp] theorem faultEntry_pInc (isConfigure : Bool) (code : FaultCode) (info : BitVec 16) (b : Block) : (faultEntry isConfigure code info b).pInc = b.pInc := rfl
@[simp] theorem faultEntry_pClk (isConfigure : Bool) (code : FaultCode) (info : BitVec 16) (b : Block) : (faultEntry isConfigure code info b).pClk = b.pClk := rfl
@[simp] theorem faultEntry_pNinc (isConfigure : Bool) (code : FaultCode) (info : BitVec 16) (b : Block) : (faultEntry isConfigure code info b).pNinc = b.pNinc := rfl
@[simp] theorem faultEntry_pSettle (isConfigure : Bool) (code : FaultCode) (info : BitVec 16) (b : Block) : (faultEntry isConfigure code info b).pSettle = b.pSettle := rfl
@[simp] theorem faultEntry_pMult (isConfigure : Bool) (code : FaultCode) (info : BitVec 16) (b : Block) : (faultEntry isConfigure code info b).pMult = b.pMult := rfl
@[simp] theorem faultEntry_pRep (isConfigure : Bool) (code : FaultCode) (info : BitVec 16) (b : Block) : (faultEntry isConfigure code info b).pRep = b.pRep := rfl
@[simp] theorem faultEntry_pStartCode (isConfigure : Bool) (code : FaultCode) (info : BitVec 16) (b : Block) : (faultEntry isConfigure code info b).pStartCode = b.pStartCode := rfl
@[simp] theorem faultEntry_pIncCode (isConfigure : Bool) (code : FaultCode) (info : BitVec 16) (b : Block) : (faultEntry isConfigure code info b).pIncCode = b.pIncCode := rfl
@[simp] theorem faultEntry_idx (isConfigure : Bool) (code : FaultCode) (info : BitVec 16) (b : Block) : (faultEntry isConfigure code info b).idx = b.idx := rfl
@[simp] theorem faultEntry_rc (isConfigure : Bool) (code : FaultCode) (info : BitVec 16) (b : Block) : (faultEntry isConfigure code info b).rc = b.rc := rfl
@[simp] theorem faultEntry_sumRe (isConfigure : Bool) (code : FaultCode) (info : BitVec 16) (b : Block) : (faultEntry isConfigure code info b).sumRe = b.sumRe := rfl
@[simp] theorem faultEntry_sumIm (isConfigure : Bool) (code : FaultCode) (info : BitVec 16) (b : Block) : (faultEntry isConfigure code info b).sumIm = b.sumIm := rfl
@[simp] theorem faultEntry_failPolls (isConfigure : Bool) (code : FaultCode) (info : BitVec 16) (b : Block) : (faultEntry isConfigure code info b).failPolls = b.failPolls := rfl
@[simp] theorem faultEntry_faultCode (isConfigure : Bool) (code : FaultCode) (info : BitVec 16) (b : Block) : (faultEntry isConfigure code info b).faultCode = code := rfl
@[simp] theorem faultEntry_faultInfo (isConfigure : Bool) (code : FaultCode) (info : BitVec 16) (b : Block) : (faultEntry isConfigure code info b).faultInfo = info := rfl
@[simp] theorem faultEntry_cr1Shadow (isConfigure : Bool) (code : FaultCode) (info : BitVec 16) (b : Block) : (faultEntry isConfigure code info b).cr1Shadow = b.cr1Shadow := rfl
@[simp] theorem faultEntry_cr2Shadow (isConfigure : Bool) (code : FaultCode) (info : BitVec 16) (b : Block) : (faultEntry isConfigure code info b).cr2Shadow = b.cr2Shadow := rfl

/-! ### faulted -/

@[simp] theorem faulted_ctl (code : FaultCode) (info : BitVec 16) (b : Block) : (faulted code info b).ctl = .faulted := rfl
@[simp] theorem faulted_sub (code : FaultCode) (info : BitVec 16) (b : Block) : (faulted code info b).sub = .none := rfl
@[simp] theorem faulted_configured (code : FaultCode) (info : BitVec 16) (b : Block) : (faulted code info b).configured = b.configured := rfl
@[simp] theorem faulted_pStart (code : FaultCode) (info : BitVec 16) (b : Block) : (faulted code info b).pStart = b.pStart := rfl
@[simp] theorem faulted_pInc (code : FaultCode) (info : BitVec 16) (b : Block) : (faulted code info b).pInc = b.pInc := rfl
@[simp] theorem faulted_pClk (code : FaultCode) (info : BitVec 16) (b : Block) : (faulted code info b).pClk = b.pClk := rfl
@[simp] theorem faulted_pNinc (code : FaultCode) (info : BitVec 16) (b : Block) : (faulted code info b).pNinc = b.pNinc := rfl
@[simp] theorem faulted_pSettle (code : FaultCode) (info : BitVec 16) (b : Block) : (faulted code info b).pSettle = b.pSettle := rfl
@[simp] theorem faulted_pMult (code : FaultCode) (info : BitVec 16) (b : Block) : (faulted code info b).pMult = b.pMult := rfl
@[simp] theorem faulted_pRep (code : FaultCode) (info : BitVec 16) (b : Block) : (faulted code info b).pRep = b.pRep := rfl
@[simp] theorem faulted_pStartCode (code : FaultCode) (info : BitVec 16) (b : Block) : (faulted code info b).pStartCode = b.pStartCode := rfl
@[simp] theorem faulted_pIncCode (code : FaultCode) (info : BitVec 16) (b : Block) : (faulted code info b).pIncCode = b.pIncCode := rfl
@[simp] theorem faulted_idx (code : FaultCode) (info : BitVec 16) (b : Block) : (faulted code info b).idx = b.idx := rfl
@[simp] theorem faulted_rc (code : FaultCode) (info : BitVec 16) (b : Block) : (faulted code info b).rc = b.rc := rfl
@[simp] theorem faulted_sumRe (code : FaultCode) (info : BitVec 16) (b : Block) : (faulted code info b).sumRe = b.sumRe := rfl
@[simp] theorem faulted_sumIm (code : FaultCode) (info : BitVec 16) (b : Block) : (faulted code info b).sumIm = b.sumIm := rfl
@[simp] theorem faulted_failPolls (code : FaultCode) (info : BitVec 16) (b : Block) : (faulted code info b).failPolls = b.failPolls := rfl
@[simp] theorem faulted_faultCode (code : FaultCode) (info : BitVec 16) (b : Block) : (faulted code info b).faultCode = code := rfl
@[simp] theorem faulted_faultInfo (code : FaultCode) (info : BitVec 16) (b : Block) : (faulted code info b).faultInfo = info := rfl
@[simp] theorem faulted_cr1Shadow (code : FaultCode) (info : BitVec 16) (b : Block) : (faulted code info b).cr1Shadow = b.cr1Shadow := rfl
@[simp] theorem faulted_cr2Shadow (code : FaultCode) (info : BitVec 16) (b : Block) : (faulted code info b).cr2Shadow = b.cr2Shadow := rfl

/-! ### loadProgram -/

@[simp] theorem loadProgram_ctl (start inc clk : BitVec 32) (ninc : BitVec 9) (settle : BitVec 10) (mult : BitVec 2)
    (rep : BitVec 16) (startCode incCode : BitVec 24) (b : Block) :
    (loadProgram start inc clk ninc settle mult rep startCode incCode b).ctl = b.ctl := rfl
@[simp] theorem loadProgram_sub (start inc clk : BitVec 32) (ninc : BitVec 9) (settle : BitVec 10) (mult : BitVec 2)
    (rep : BitVec 16) (startCode incCode : BitVec 24) (b : Block) :
    (loadProgram start inc clk ninc settle mult rep startCode incCode b).sub = b.sub := rfl
@[simp] theorem loadProgram_configured (start inc clk : BitVec 32) (ninc : BitVec 9) (settle : BitVec 10) (mult : BitVec 2)
    (rep : BitVec 16) (startCode incCode : BitVec 24) (b : Block) :
    (loadProgram start inc clk ninc settle mult rep startCode incCode b).configured = true := rfl
@[simp] theorem loadProgram_pStart (start inc clk : BitVec 32) (ninc : BitVec 9) (settle : BitVec 10) (mult : BitVec 2)
    (rep : BitVec 16) (startCode incCode : BitVec 24) (b : Block) :
    (loadProgram start inc clk ninc settle mult rep startCode incCode b).pStart = start := rfl
@[simp] theorem loadProgram_pInc (start inc clk : BitVec 32) (ninc : BitVec 9) (settle : BitVec 10) (mult : BitVec 2)
    (rep : BitVec 16) (startCode incCode : BitVec 24) (b : Block) :
    (loadProgram start inc clk ninc settle mult rep startCode incCode b).pInc = inc := rfl
@[simp] theorem loadProgram_pClk (start inc clk : BitVec 32) (ninc : BitVec 9) (settle : BitVec 10) (mult : BitVec 2)
    (rep : BitVec 16) (startCode incCode : BitVec 24) (b : Block) :
    (loadProgram start inc clk ninc settle mult rep startCode incCode b).pClk = clk := rfl
@[simp] theorem loadProgram_pNinc (start inc clk : BitVec 32) (ninc : BitVec 9) (settle : BitVec 10) (mult : BitVec 2)
    (rep : BitVec 16) (startCode incCode : BitVec 24) (b : Block) :
    (loadProgram start inc clk ninc settle mult rep startCode incCode b).pNinc = ninc := rfl
@[simp] theorem loadProgram_pSettle (start inc clk : BitVec 32) (ninc : BitVec 9) (settle : BitVec 10) (mult : BitVec 2)
    (rep : BitVec 16) (startCode incCode : BitVec 24) (b : Block) :
    (loadProgram start inc clk ninc settle mult rep startCode incCode b).pSettle = settle := rfl
@[simp] theorem loadProgram_pMult (start inc clk : BitVec 32) (ninc : BitVec 9) (settle : BitVec 10) (mult : BitVec 2)
    (rep : BitVec 16) (startCode incCode : BitVec 24) (b : Block) :
    (loadProgram start inc clk ninc settle mult rep startCode incCode b).pMult = mult := rfl
@[simp] theorem loadProgram_pRep (start inc clk : BitVec 32) (ninc : BitVec 9) (settle : BitVec 10) (mult : BitVec 2)
    (rep : BitVec 16) (startCode incCode : BitVec 24) (b : Block) :
    (loadProgram start inc clk ninc settle mult rep startCode incCode b).pRep = rep := rfl
@[simp] theorem loadProgram_pStartCode (start inc clk : BitVec 32) (ninc : BitVec 9) (settle : BitVec 10) (mult : BitVec 2)
    (rep : BitVec 16) (startCode incCode : BitVec 24) (b : Block) :
    (loadProgram start inc clk ninc settle mult rep startCode incCode b).pStartCode = startCode := rfl
@[simp] theorem loadProgram_pIncCode (start inc clk : BitVec 32) (ninc : BitVec 9) (settle : BitVec 10) (mult : BitVec 2)
    (rep : BitVec 16) (startCode incCode : BitVec 24) (b : Block) :
    (loadProgram start inc clk ninc settle mult rep startCode incCode b).pIncCode = incCode := rfl
@[simp] theorem loadProgram_idx (start inc clk : BitVec 32) (ninc : BitVec 9) (settle : BitVec 10) (mult : BitVec 2)
    (rep : BitVec 16) (startCode incCode : BitVec 24) (b : Block) :
    (loadProgram start inc clk ninc settle mult rep startCode incCode b).idx = b.idx := rfl
@[simp] theorem loadProgram_rc (start inc clk : BitVec 32) (ninc : BitVec 9) (settle : BitVec 10) (mult : BitVec 2)
    (rep : BitVec 16) (startCode incCode : BitVec 24) (b : Block) :
    (loadProgram start inc clk ninc settle mult rep startCode incCode b).rc = b.rc := rfl
@[simp] theorem loadProgram_sumRe (start inc clk : BitVec 32) (ninc : BitVec 9) (settle : BitVec 10) (mult : BitVec 2)
    (rep : BitVec 16) (startCode incCode : BitVec 24) (b : Block) :
    (loadProgram start inc clk ninc settle mult rep startCode incCode b).sumRe = b.sumRe := rfl
@[simp] theorem loadProgram_sumIm (start inc clk : BitVec 32) (ninc : BitVec 9) (settle : BitVec 10) (mult : BitVec 2)
    (rep : BitVec 16) (startCode incCode : BitVec 24) (b : Block) :
    (loadProgram start inc clk ninc settle mult rep startCode incCode b).sumIm = b.sumIm := rfl
@[simp] theorem loadProgram_failPolls (start inc clk : BitVec 32) (ninc : BitVec 9) (settle : BitVec 10) (mult : BitVec 2)
    (rep : BitVec 16) (startCode incCode : BitVec 24) (b : Block) :
    (loadProgram start inc clk ninc settle mult rep startCode incCode b).failPolls = b.failPolls := rfl
@[simp] theorem loadProgram_faultCode (start inc clk : BitVec 32) (ninc : BitVec 9) (settle : BitVec 10) (mult : BitVec 2)
    (rep : BitVec 16) (startCode incCode : BitVec 24) (b : Block) :
    (loadProgram start inc clk ninc settle mult rep startCode incCode b).faultCode = b.faultCode := rfl
@[simp] theorem loadProgram_faultInfo (start inc clk : BitVec 32) (ninc : BitVec 9) (settle : BitVec 10) (mult : BitVec 2)
    (rep : BitVec 16) (startCode incCode : BitVec 24) (b : Block) :
    (loadProgram start inc clk ninc settle mult rep startCode incCode b).faultInfo = b.faultInfo := rfl
@[simp] theorem loadProgram_cr1Shadow (start inc clk : BitVec 32) (ninc : BitVec 9) (settle : BitVec 10) (mult : BitVec 2)
    (rep : BitVec 16) (startCode incCode : BitVec 24) (b : Block) :
    (loadProgram start inc clk ninc settle mult rep startCode incCode b).cr1Shadow = b.cr1Shadow := rfl
@[simp] theorem loadProgram_cr2Shadow (start inc clk : BitVec 32) (ninc : BitVec 9) (settle : BitVec 10) (mult : BitVec 2)
    (rep : BitVec 16) (startCode incCode : BitVec 24) (b : Block) :
    (loadProgram start inc clk ninc settle mult rep startCode incCode b).cr2Shadow = b.cr2Shadow := rfl

/-! ### setShadow -/

@[simp] theorem setShadow_ctl (b : Block) (addr : Addr) (x : Option Byte) : (setShadow b addr x).ctl = b.ctl := by
  unfold setShadow; split <;> [rfl; (split <;> rfl)]
@[simp] theorem setShadow_sub (b : Block) (addr : Addr) (x : Option Byte) : (setShadow b addr x).sub = b.sub := by
  unfold setShadow; split <;> [rfl; (split <;> rfl)]
@[simp] theorem setShadow_configured (b : Block) (addr : Addr) (x : Option Byte) : (setShadow b addr x).configured = b.configured := by
  unfold setShadow; split <;> [rfl; (split <;> rfl)]
@[simp] theorem setShadow_pStart (b : Block) (addr : Addr) (x : Option Byte) : (setShadow b addr x).pStart = b.pStart := by
  unfold setShadow; split <;> [rfl; (split <;> rfl)]
@[simp] theorem setShadow_pInc (b : Block) (addr : Addr) (x : Option Byte) : (setShadow b addr x).pInc = b.pInc := by
  unfold setShadow; split <;> [rfl; (split <;> rfl)]
@[simp] theorem setShadow_pClk (b : Block) (addr : Addr) (x : Option Byte) : (setShadow b addr x).pClk = b.pClk := by
  unfold setShadow; split <;> [rfl; (split <;> rfl)]
@[simp] theorem setShadow_pNinc (b : Block) (addr : Addr) (x : Option Byte) : (setShadow b addr x).pNinc = b.pNinc := by
  unfold setShadow; split <;> [rfl; (split <;> rfl)]
@[simp] theorem setShadow_pSettle (b : Block) (addr : Addr) (x : Option Byte) : (setShadow b addr x).pSettle = b.pSettle := by
  unfold setShadow; split <;> [rfl; (split <;> rfl)]
@[simp] theorem setShadow_pMult (b : Block) (addr : Addr) (x : Option Byte) : (setShadow b addr x).pMult = b.pMult := by
  unfold setShadow; split <;> [rfl; (split <;> rfl)]
@[simp] theorem setShadow_pRep (b : Block) (addr : Addr) (x : Option Byte) : (setShadow b addr x).pRep = b.pRep := by
  unfold setShadow; split <;> [rfl; (split <;> rfl)]
@[simp] theorem setShadow_pStartCode (b : Block) (addr : Addr) (x : Option Byte) : (setShadow b addr x).pStartCode = b.pStartCode := by
  unfold setShadow; split <;> [rfl; (split <;> rfl)]
@[simp] theorem setShadow_pIncCode (b : Block) (addr : Addr) (x : Option Byte) : (setShadow b addr x).pIncCode = b.pIncCode := by
  unfold setShadow; split <;> [rfl; (split <;> rfl)]
@[simp] theorem setShadow_idx (b : Block) (addr : Addr) (x : Option Byte) : (setShadow b addr x).idx = b.idx := by
  unfold setShadow; split <;> [rfl; (split <;> rfl)]
@[simp] theorem setShadow_rc (b : Block) (addr : Addr) (x : Option Byte) : (setShadow b addr x).rc = b.rc := by
  unfold setShadow; split <;> [rfl; (split <;> rfl)]
@[simp] theorem setShadow_sumRe (b : Block) (addr : Addr) (x : Option Byte) : (setShadow b addr x).sumRe = b.sumRe := by
  unfold setShadow; split <;> [rfl; (split <;> rfl)]
@[simp] theorem setShadow_sumIm (b : Block) (addr : Addr) (x : Option Byte) : (setShadow b addr x).sumIm = b.sumIm := by
  unfold setShadow; split <;> [rfl; (split <;> rfl)]
@[simp] theorem setShadow_failPolls (b : Block) (addr : Addr) (x : Option Byte) : (setShadow b addr x).failPolls = b.failPolls := by
  unfold setShadow; split <;> [rfl; (split <;> rfl)]
@[simp] theorem setShadow_faultCode (b : Block) (addr : Addr) (x : Option Byte) : (setShadow b addr x).faultCode = b.faultCode := by
  unfold setShadow; split <;> [rfl; (split <;> rfl)]
@[simp] theorem setShadow_faultInfo (b : Block) (addr : Addr) (x : Option Byte) : (setShadow b addr x).faultInfo = b.faultInfo := by
  unfold setShadow; split <;> [rfl; (split <;> rfl)]
@[simp] theorem setShadow_cr1Shadow (b : Block) (addr : Addr) (x : Option Byte) :
    (setShadow b addr x).cr1Shadow = if addr = cr1Addr then x else b.cr1Shadow := by
  unfold setShadow; split <;> [rfl; (split <;> rfl)]

@[simp] theorem setShadow_cr2Shadow (b : Block) (addr : Addr) (x : Option Byte) :
    (setShadow b addr x).cr2Shadow = if addr = cr1Addr then b.cr2Shadow else if addr = cr2Addr then x else b.cr2Shadow := by
  unfold setShadow; split <;> [rfl; (split <;> rfl)]

/-! ### record -/

@[simp] theorem record_blk (s : State) (e : BusEvent) : (record s e).blk = s.blk := rfl
@[simp] theorem record_inputs (s : State) (e : BusEvent) : (record s e).inputs = s.inputs := rfl
@[simp] theorem record_answers (s : State) (e : BusEvent) : (record s e).answers = s.answers.tail := rfl
@[simp] theorem record_draws (s : State) (e : BusEvent) : (record s e).draws = s.draws + 1 := rfl
@[simp] theorem record_pollBudget (s : State) (e : BusEvent) : (record s e).pollBudget = s.pollBudget := rfl
@[simp] theorem record_trace (s : State) (e : BusEvent) : (record s e).trace = s.trace ++ [e] := rfl
@[simp] theorem record_response (s : State) (e : BusEvent) : (record s e).response = s.response := rfl

/-! ### clearOutputs -/

@[simp] theorem clearOutputs_blk (s : State) : (clearOutputs s).blk = s.blk := rfl
@[simp] theorem clearOutputs_inputs (s : State) : (clearOutputs s).inputs = s.inputs := rfl
@[simp] theorem clearOutputs_answers (s : State) : (clearOutputs s).answers = s.answers := rfl
@[simp] theorem clearOutputs_draws (s : State) : (clearOutputs s).draws = s.draws := rfl
@[simp] theorem clearOutputs_pollBudget (s : State) : (clearOutputs s).pollBudget = s.pollBudget := rfl
@[simp] theorem clearOutputs_trace (s : State) : (clearOutputs s).trace = [] := rfl
@[simp] theorem clearOutputs_response (s : State) : (clearOutputs s).response = none := rfl

/-! ### resetBlock -/

@[simp] theorem resetBlock_blk (s : State) : (resetBlock s).blk = Block.reset := rfl
@[simp] theorem resetBlock_inputs (s : State) : (resetBlock s).inputs = s.inputs := rfl
@[simp] theorem resetBlock_answers (s : State) : (resetBlock s).answers = s.answers := rfl
@[simp] theorem resetBlock_draws (s : State) : (resetBlock s).draws = s.draws := rfl
@[simp] theorem resetBlock_pollBudget (s : State) : (resetBlock s).pollBudget = s.pollBudget := rfl
@[simp] theorem resetBlock_trace (s : State) : (resetBlock s).trace = [] := rfl
@[simp] theorem resetBlock_response (s : State) : (resetBlock s).response = none := rfl

/-! ### idleStep -/

@[simp] theorem idleStep_blk (s : State) : (idleStep s).blk = s.blk := rfl
@[simp] theorem idleStep_inputs (s : State) : (idleStep s).inputs = s.inputs := rfl
@[simp] theorem idleStep_answers (s : State) : (idleStep s).answers = s.answers := rfl
@[simp] theorem idleStep_draws (s : State) : (idleStep s).draws = s.draws := rfl
@[simp] theorem idleStep_pollBudget (s : State) : (idleStep s).pollBudget = s.pollBudget := rfl
@[simp] theorem idleStep_trace (s : State) : (idleStep s).trace = [] := rfl
@[simp] theorem idleStep_response (s : State) : (idleStep s).response = none := rfl

/-! ### putFrame -/

@[simp] theorem putFrame_blk (s : State) (f : Frame) : (putFrame s f).blk = s.blk := rfl
@[simp] theorem putFrame_inputs (s : State) (f : Frame) : (putFrame s f).inputs = .command f :: s.inputs := rfl
@[simp] theorem putFrame_answers (s : State) (f : Frame) : (putFrame s f).answers = s.answers := rfl
@[simp] theorem putFrame_draws (s : State) (f : Frame) : (putFrame s f).draws = s.draws := rfl
@[simp] theorem putFrame_pollBudget (s : State) (f : Frame) : (putFrame s f).pollBudget = s.pollBudget := rfl
@[simp] theorem putFrame_trace (s : State) (f : Frame) : (putFrame s f).trace = s.trace := rfl
@[simp] theorem putFrame_response (s : State) (f : Frame) : (putFrame s f).response = s.response := rfl

/-! ### withTrace -/

@[simp] theorem withTrace_blk (s : State) (events : List BusEvent) : (withTrace s events).blk = s.blk := rfl
@[simp] theorem withTrace_inputs (s : State) (events : List BusEvent) : (withTrace s events).inputs = s.inputs := rfl
@[simp] theorem withTrace_answers (s : State) (events : List BusEvent) : (withTrace s events).answers = s.answers.drop events.length := rfl
@[simp] theorem withTrace_draws (s : State) (events : List BusEvent) : (withTrace s events).draws = s.draws + events.length := rfl
@[simp] theorem withTrace_pollBudget (s : State) (events : List BusEvent) : (withTrace s events).pollBudget = s.pollBudget := rfl
@[simp] theorem withTrace_trace (s : State) (events : List BusEvent) : (withTrace s events).trace = events := rfl
@[simp] theorem withTrace_response (s : State) (events : List BusEvent) : (withTrace s events).response = s.response := rfl

@[simp] theorem State_reset_blk : State.reset.blk = Block.reset := rfl
@[simp] theorem State_reset_inputs : State.reset.inputs = [] := rfl
@[simp] theorem State_reset_answers : State.reset.answers = [] := rfl
@[simp] theorem State_reset_draws : State.reset.draws = 0 := rfl
@[simp] theorem State_reset_pollBudget : State.reset.pollBudget = Config.pollBudget := rfl
@[simp] theorem State_reset_trace : State.reset.trace = [] := rfl
@[simp] theorem State_reset_response : State.reset.response = none := rfl

end Sys2Proof.Machine
end

