-- ==== Sys2Proof/Laws/Ops.lean ====
section
/-! SUPPORT. For each shared operation, one lemma that says once everything it can do: a transaction, a run of writes, a
register's read-modify-write, the reads of a sample, and the end of a command. -/

namespace Sys2Proof.Machine

/-! ### Answers -/

theorem nextAnswer_eq_answerAt (s : State) (req : BusRequest) : nextAnswer s req = answerAt s 0 req := by
  unfold nextAnswer answerAt
  cases s.answers <;> rfl

@[simp] theorem answerAt_record (s : State) (e : BusEvent) (k : Nat) (req : BusRequest) :
    answerAt (record s e) k req = answerAt s (k + 1) req := by
  have count : s.draws + 1 + k = s.draws + (k + 1) := by omega
  unfold answerAt
  cases h : s.answers with
  | nil => simp [h, count]
  | cons a rest => simp [h, count]

@[simp] theorem answerAt_clearOutputs (s : State) (k : Nat) (req : BusRequest) :
    answerAt (clearOutputs s) k req = answerAt s k req := rfl

/-- An answer depends on the answers still fixed and on the count of transactions alone. -/
theorem answerAt_congr {s t : State} (ha : t.answers = s.answers) (hd : t.draws = s.draws) (k : Nat) (req : BusRequest) :
    answerAt t k req = answerAt s k req := by
  unfold answerAt; rw [ha, hd]

/-! ### andThen -/

@[simp] theorem andThen_go {α β : Type} (value : α) (s : State) (next : α → State → Progress β) :
    andThen (.go value s) next = next value s := rfl

@[simp] theorem andThen_raised {α β : Type} (e : Raise) (s : State) (next : α → State → Progress β) :
    andThen (.raised e s) next = .raised e s := rfl

theorem andThen_assoc {α β γ : Type} (p : Progress α) (f : α → State → Progress β) (g : β → State → Progress γ) :
    andThen (andThen p f) g = andThen p fun a s => andThen (f a s) g := by
  cases p <;> rfl

/-! ### One transaction -/

/-- Everything a read can do. -/
theorem memRead_cases (addr : Addr) (s : State) :
    (∃ v, reads s 0 addr v ∧ memRead addr s = .go v (record s (.read addr (some v)))) ∨
    (readFails s 0 addr ∧ memRead addr s = .raised (.bus false addr) (record s (.read addr none))) := by
  unfold memRead reads readFails
  rw [← nextAnswer_eq_answerAt]
  cases h : nextAnswer s (.read addr) with
  | ack v => exact .inl ⟨v, rfl, rfl⟩
  | ioError => exact .inr ⟨rfl, rfl⟩

theorem memRead_of_reads {addr : Addr} {s : State} {v : Byte} (h : reads s 0 addr v) :
    memRead addr s = .go v (record s (.read addr (some v))) := by
  unfold memRead; rw [nextAnswer_eq_answerAt, h]

theorem memRead_of_readFails {addr : Addr} {s : State} (h : readFails s 0 addr) :
    memRead addr s = .raised (.bus false addr) (record s (.read addr none)) := by
  unfold memRead; rw [nextAnswer_eq_answerAt, h]

/-- The state a successful write leaves. -/
abbrev wrote (s : State) (addr : Addr) (byte : Byte) : State :=
  { record s (.write addr byte true) with blk := setShadow s.blk addr (some byte) }

/-- The state a failed write leaves. -/
abbrev failedWrite (s : State) (addr : Addr) (byte : Byte) : State :=
  { record s (.write addr byte false) with blk := setShadow s.blk addr none }

theorem memWrite_of_writes {addr : Addr} {byte : Byte} {s : State} (h : writes s 0 addr byte) :
    memWrite addr byte s = .go () (wrote s addr byte) := by
  unfold writes at h
  unfold memWrite
  rw [nextAnswer_eq_answerAt]
  cases hw : answerAt s 0 (.write addr byte) with
  | ack _ => rfl
  | ioError => exact absurd hw h

theorem memWrite_of_writeFails {addr : Addr} {byte : Byte} {s : State} (h : writeFails s 0 addr byte) :
    memWrite addr byte s = .raised (.bus true addr) (failedWrite s addr byte) := by
  unfold memWrite; rw [nextAnswer_eq_answerAt, h]

theorem writes_or_writeFails (s : State) (k : Nat) (addr : Addr) (byte : Byte) :
    writes s k addr byte ∨ writeFails s k addr byte := by
  unfold writes writeFails
  exact (Decidable.em (answerAt s k (.write addr byte) = .ioError)).symm

/-- Everything a write can do. -/
theorem memWrite_cases (addr : Addr) (byte : Byte) (s : State) :
    (writes s 0 addr byte ∧ memWrite addr byte s = .go () (wrote s addr byte)) ∨
    (writeFails s 0 addr byte ∧ memWrite addr byte s = .raised (.bus true addr) (failedWrite s addr byte)) :=
  (writes_or_writeFails s 0 addr byte).imp (fun h => ⟨h, memWrite_of_writes h⟩) (fun h => ⟨h, memWrite_of_writeFails h⟩)

@[simp] theorem reads_record (s : State) (e : BusEvent) (k : Nat) (addr : Addr) (v : Byte) :
    reads (record s e) k addr v ↔ reads s (k + 1) addr v := by unfold reads; rw [answerAt_record]

@[simp] theorem readFails_record (s : State) (e : BusEvent) (k : Nat) (addr : Addr) :
    readFails (record s e) k addr ↔ readFails s (k + 1) addr := by unfold readFails; rw [answerAt_record]

@[simp] theorem writes_record (s : State) (e : BusEvent) (k : Nat) (addr : Addr) (v : Byte) :
    writes (record s e) k addr v ↔ writes s (k + 1) addr v := by unfold writes; rw [answerAt_record]

@[simp] theorem writeFails_record (s : State) (e : BusEvent) (k : Nat) (addr : Addr) (v : Byte) :
    writeFails (record s e) k addr v ↔ writeFails s (k + 1) addr v := by unfold writeFails; rw [answerAt_record]

/-! ### Read-modify-write -/

/-- Everything a read-modify-write can do: fail at the read, fail at the write, or succeed (41_control_register.md R121). -/
theorem modifyRegister_cases (addr : Addr) (change : Byte → Byte) (s : State) :
    (readFails s 0 addr ∧ modifyRegister addr change s = .raised (.bus false addr) (record s (.read addr none))) ∨
    (∃ v, reads s 0 addr v ∧ writeFails s 1 addr (change v) ∧ modifyRegister addr change s =
      .raised (.bus true addr) (failedWrite (record s (.read addr (some v))) addr (change v))) ∨
    (∃ v, reads s 0 addr v ∧ writes s 1 addr (change v) ∧ modifyRegister addr change s =
      .go () (wrote (record s (.read addr (some v))) addr (change v))) := by
  unfold modifyRegister
  rcases memRead_cases addr s with ⟨v, hr, h⟩ | ⟨hr, h⟩
  · refine .inr ?_
    rw [h, andThen_go]
    rcases memWrite_cases addr (change v) (record s (.read addr (some v))) with ⟨hw, h'⟩ | ⟨hw, h'⟩
    · exact .inr ⟨v, hr, (writes_record ..).mp hw, h'⟩
    · exact .inl ⟨v, hr, (writeFails_record ..).mp hw, h'⟩
  · exact .inl ⟨hr, by rw [h, andThen_raised]⟩

/-! ### A run of writes -/

/-- The state that the successful writes `pre` leave. -/
def afterWrites : List (Addr × Byte) → State → State
  | [], s => s
  | x :: rest, s => afterWrites rest (wrote s x.1 x.2)

theorem writesAll_cons (s : State) (x : Addr × Byte) (rest : List (Addr × Byte)) :
    writesAll s (x :: rest) ↔ writes s 0 x.1 x.2 ∧ writesAll (wrote s x.1 x.2) rest := by
  have key : ∀ (k : Nat) (y : Addr × Byte), writes (wrote s x.1 x.2) k y.1 y.2 ↔ writes s (k + 1) y.1 y.2 := by
    intro k y
    exact writes_record s (.write x.1 x.2 true) k y.1 y.2
  constructor
  · intro h
    refine ⟨h 0 x rfl, fun j y hj => (key j y).mpr (h (j + 1) y ?_)⟩
    simpa using hj
  · rintro ⟨h0, h⟩ j y hj
    cases j with
    | zero => simp only [List.getElem?_cons_zero, Option.some.injEq] at hj; subst hj; exact h0
    | succ j => exact (key j y).mp (h j y (by simpa using hj))

theorem memWrites_of_writesAll {ws : List (Addr × Byte)} {s : State} (h : writesAll s ws) :
    memWrites ws s = .go () (afterWrites ws s) := by
  induction ws generalizing s with
  | nil => rfl
  | cons x rest ih =>
    obtain ⟨h0, h1⟩ := (writesAll_cons s x rest).mp h
    show andThen (memWrite x.1 x.2 s) _ = _
    rw [memWrite_of_writes h0]
    exact ih h1

/-- Everything a run of writes can do: all succeed, or those before the first that fails (60_exceptions.md R210). -/
theorem memWrites_cases (ws : List (Addr × Byte)) (s : State) :
    (writesAll s ws ∧ memWrites ws s = .go () (afterWrites ws s)) ∨
    (∃ pre x post, ws = pre ++ x :: post ∧ writesAll s pre ∧ writeFails s pre.length x.1 x.2 ∧
      memWrites ws s = .raised (.bus true x.1) (failedWrite (afterWrites pre s) x.1 x.2)) := by
  induction ws generalizing s with
  | nil => exact .inl ⟨fun j x h => by simp at h, rfl⟩
  | cons x rest ih =>
    have unfold_cons : memWrites (x :: rest) s = andThen (memWrite x.1 x.2 s) fun _ s => memWrites rest s := rfl
    rcases memWrite_cases x.1 x.2 s with ⟨h0, h⟩ | ⟨h0, h⟩
    · rcases ih (wrote s x.1 x.2) with ⟨h1, h'⟩ | ⟨pre, y, post, rfl, h1, h2, h'⟩
      · exact .inl ⟨(writesAll_cons ..).mpr ⟨h0, h1⟩, by rw [unfold_cons, h, andThen_go, h']; rfl⟩
      · refine .inr ⟨x :: pre, y, post, rfl, (writesAll_cons ..).mpr ⟨h0, h1⟩, ?_, ?_⟩
        · exact (writeFails_record s (.write x.1 x.2 true) pre.length y.1 y.2).mp h2
        · rw [unfold_cons, h, andThen_go, h']; rfl
    · refine .inr ⟨[], x, rest, rfl, fun j y hj => by simp at hj, h0, ?_⟩
      rw [unfold_cons, h, andThen_raised]; rfl

/-- What a run of successful writes leaves beside the block. -/
theorem afterWrites_fields (ws : List (Addr × Byte)) (s : State) :
    (afterWrites ws s).answers = s.answers.drop ws.length ∧ (afterWrites ws s).draws = s.draws + ws.length ∧
    (afterWrites ws s).trace = s.trace ++ writeEvents ws ∧ (afterWrites ws s).inputs = s.inputs ∧
    (afterWrites ws s).pollBudget = s.pollBudget ∧ (afterWrites ws s).response = s.response := by
  induction ws generalizing s with
  | nil => simp [afterWrites, writeEvents]
  | cons x rest ih =>
    obtain ⟨h1, h2, h3, h4, h5, h6⟩ := ih (wrote s x.1 x.2)
    refine ⟨?_, ?_, ?_, h4, h5, h6⟩
    · rw [afterWrites, h1]; simp
    · rw [afterWrites, h2]; simp [Nat.add_assoc, Nat.add_comm 1]
    · rw [afterWrites, h3]; simp [writeEvents]

/-- Writes outside the control registers leave the block as it is (10_state.md R37). -/
theorem afterWrites_blk {ws : List (Addr × Byte)} (h : ∀ x ∈ ws, x.1 ≠ cr1Addr ∧ x.1 ≠ cr2Addr) (s : State) :
    (afterWrites ws s).blk = s.blk := by
  induction ws generalizing s with
  | nil => rfl
  | cons x rest ih =>
    rw [afterWrites, ih (fun y hy => h y (List.mem_cons_of_mem _ hy))]
    simp [setShadow, h x List.mem_cons_self]

/-! ### A run of reads -/

/-- The state that the successful reads `pre` leave. -/
def afterReads : List (Addr × Byte) → State → State
  | [], s => s
  | x :: rest, s => afterReads rest (record s (.read x.1 (some x.2)))

theorem readsAll_cons (s : State) (x : Addr × Byte) (rest : List (Addr × Byte)) :
    readsAll s (x :: rest) ↔ reads s 0 x.1 x.2 ∧ readsAll (record s (.read x.1 (some x.2))) rest := by
  constructor
  · intro h
    refine ⟨h 0 x rfl, fun j y hj => (reads_record ..).mpr (h (j + 1) y ?_)⟩
    simpa using hj
  · rintro ⟨h0, h⟩ j y hj
    cases j with
    | zero => simp only [List.getElem?_cons_zero, Option.some.injEq] at hj; subst hj; exact h0
    | succ j => exact (reads_record ..).mp (h j y (by simpa using hj))

/-- What a run of successful reads leaves: the block untouched, the events on the trace (10_state.md R37). -/
theorem afterReads_eq (xs : List (Addr × Byte)) (s : State) :
    afterReads xs s = { s with answers := s.answers.drop xs.length, draws := s.draws + xs.length
                               trace := s.trace ++ readEvents xs } := by
  induction xs generalizing s with
  | nil => simp [afterReads, readEvents]
  | cons x rest ih => rw [afterReads, ih]; simp [readEvents, record, Nat.add_assoc, Nat.add_comm 1]

theorem reads_afterReads (xs : List (Addr × Byte)) (s : State) (k : Nat) (addr : Addr) (v : Byte) :
    reads (afterReads xs s) k addr v ↔ reads s (xs.length + k) addr v := by
  induction xs generalizing s k with
  | nil => simp [afterReads]
  | cons x rest ih => rw [afterReads, ih, reads_record, List.length_cons, Nat.add_right_comm]

theorem readFails_afterReads (xs : List (Addr × Byte)) (s : State) (k : Nat) (addr : Addr) :
    readFails (afterReads xs s) k addr ↔ readFails s (xs.length + k) addr := by
  induction xs generalizing s k with
  | nil => simp [afterReads]
  | cons x rest ih => rw [afterReads, ih, readFails_record, List.length_cons, Nat.add_right_comm]

theorem writes_afterReads (xs : List (Addr × Byte)) (s : State) (k : Nat) (addr : Addr) (v : Byte) :
    writes (afterReads xs s) k addr v ↔ writes s (xs.length + k) addr v := by
  induction xs generalizing s k with
  | nil => simp [afterReads]
  | cons x rest ih => rw [afterReads, ih, writes_record, List.length_cons, Nat.add_right_comm]

theorem writeFails_afterReads (xs : List (Addr × Byte)) (s : State) (k : Nat) (addr : Addr) (v : Byte) :
    writeFails (afterReads xs s) k addr v ↔ writeFails s (xs.length + k) addr v := by
  induction xs generalizing s k with
  | nil => simp [afterReads]
  | cons x rest ih => rw [afterReads, ih, writeFails_record, List.length_cons, Nat.add_right_comm]

/-- Everything a read and what follows it can do. -/
theorem andThen_memRead_cases {β : Type} (addr : Addr) (s : State) (next : Byte → State → Progress β) :
    (∃ v, reads s 0 addr v ∧ andThen (memRead addr s) next = next v (record s (.read addr (some v)))) ∨
    (readFails s 0 addr ∧ andThen (memRead addr s) next = .raised (.bus false addr) (record s (.read addr none))) := by
  rcases memRead_cases addr s with ⟨v, h, e⟩ | ⟨h, e⟩
  · exact .inl ⟨v, h, by rw [e, andThen_go]⟩
  · exact .inr ⟨h, by rw [e, andThen_raised]⟩

theorem readsAll_nil (s : State) : readsAll s [] := fun j x h => by simp at h

/-- Everything the reads of a sample can do: all four succeed, or those before the first that fails
(43_measurement_poller.md R162). -/
theorem readSample_cases (s : State) :
    (∃ rh rl ih il, readsAll s [(0x94, rh), (0x95, rl), (0x96, ih), (0x97, il)] ∧
      readSample s =
        .go (word16 rh rl, word16 ih il) (afterReads [(0x94, rh), (0x95, rl), (0x96, ih), (0x97, il)] s)) ∨
    (∃ pre addr later, pre.map Prod.fst ++ addr :: later = [0x94, 0x95, 0x96, 0x97] ∧ readsAll s pre ∧
      readFails s pre.length addr ∧
      readSample s = .raised (.bus false addr) (record (afterReads pre s) (.read addr none))) := by
  unfold readSample
  rcases andThen_memRead_cases realHighAddr s _ with ⟨rh, h1, e1⟩ | ⟨h1, e1⟩ <;> rw [e1]
  swap
  · exact .inr ⟨[], 0x94, [0x95, 0x96, 0x97], rfl, readsAll_nil s, h1, rfl⟩
  rcases andThen_memRead_cases realLowAddr (record s (.read realHighAddr (some rh))) _ with
    ⟨rl, h2, e2⟩ | ⟨h2, e2⟩ <;> rw [e2]
  swap
  · refine .inr ⟨[(0x94, rh)], 0x95, [0x96, 0x97], rfl, ?_, ?_, rfl⟩
    · exact (readsAll_cons ..).mpr ⟨h1, readsAll_nil _⟩
    · exact (readFails_record ..).mp h2
  rcases andThen_memRead_cases imagHighAddr
    (record (record s (.read realHighAddr (some rh))) (.read realLowAddr (some rl))) _ with
    ⟨ih, h3, e3⟩ | ⟨h3, e3⟩ <;> rw [e3]
  swap
  · refine .inr ⟨[(0x94, rh), (0x95, rl)], 0x96, [0x97], rfl, ?_, ?_, rfl⟩
    · exact (readsAll_cons ..).mpr ⟨h1, (readsAll_cons ..).mpr ⟨h2, readsAll_nil _⟩⟩
    · exact (readFails_record ..).mp ((readFails_record ..).mp h3)
  rcases andThen_memRead_cases imagLowAddr
    (record (record (record s (.read realHighAddr (some rh))) (.read realLowAddr (some rl)))
      (.read imagHighAddr (some ih))) _ with ⟨il, h4, e4⟩ | ⟨h4, e4⟩ <;> rw [e4]
  · refine .inl ⟨rh, rl, ih, il, ?_, rfl⟩
    exact (readsAll_cons ..).mpr ⟨h1, (readsAll_cons ..).mpr ⟨h2, (readsAll_cons ..).mpr ⟨h3, (readsAll_cons ..).mpr
      ⟨h4, readsAll_nil _⟩⟩⟩⟩
  · refine .inr ⟨[(0x94, rh), (0x95, rl), (0x96, ih)], 0x97, [], rfl, ?_, ?_, rfl⟩
    · exact (readsAll_cons ..).mpr ⟨h1, (readsAll_cons ..).mpr ⟨h2, (readsAll_cons ..).mpr ⟨h3, readsAll_nil _⟩⟩⟩
    · exact (readFails_record ..).mp ((readFails_record ..).mp ((readFails_record ..).mp h4))

/-! ### The end of a command -/

@[simp] theorem conclude_go (isConfigure : Bool) (r : Response) (s : State) :
    conclude isConfigure (.go r s) = { s with response := some r } := rfl

@[simp] theorem conclude_raised (isConfigure : Bool) (e : Raise) (s : State) :
    conclude isConfigure (.raised e s) = applyError isConfigure e s := rfl

/-- Everything an error can do: enter Faulted and record it (60_exceptions.md R207), or change nothing (R208). -/
theorem applyError_cases (isConfigure : Bool) (e : Raise) (s : State) :
    (raiseFaultCode e ≠ .none ∧ applyError isConfigure e s =
      { s with blk := faultEntry isConfigure (raiseFaultCode e) (raiseInfo e) s.blk
               response := some (errorResponse e .faulted) }) ∨
    (raiseFaultCode e = .none ∧ applyError isConfigure e s =
      { s with response := some (errorResponse e s.blk.ctl) }) := by
  cases e <;> simp [applyError, raiseFaultCode]

@[simp] theorem conclude_commit (isConfigure : Bool) (b : Block) (s : State) :
    conclude isConfigure (commit b s) = { s with blk := b, response := some (okResponse b.ctl) } := rfl

@[simp] theorem conclude_raiseIllegal (isConfigure : Bool) (op : BitVec 8) (s : State) :
    conclude isConfigure (raiseIllegal op s) =
      { s with response := some (rejection .illegalCommand (illegalInfo s.blk.ctl op) s.blk) } := rfl

/-- A command always answers a next state. -/
theorem runCommand_eq (isConfigure : Bool) (body : State → Progress Response) (s : State) :
    runCommand isConfigure body s = .next (conclude isConfigure (body (clearOutputs s))) := rfl

theorem exec_answers_next (i : Instr) (s : State) : ∃ t, exec i s = .next t := by
  cases i <;> exact ⟨_, rfl⟩

/-- Everything a step can do (20_memory.md R62, 30_encoding.md R78). -/
theorem step_cases (s : State) :
    (s.inputs = [] ∧ step s = .next (idleStep s)) ∨
    (∃ rest, s.inputs = .reset :: rest ∧ step s = .next (resetBlock { s with inputs := rest })) ∨
    (∃ f rest i, s.inputs = .command f :: rest ∧ decode f = .ok i ∧ step s = exec i { s with inputs := rest }) ∨
    (∃ f rest op, s.inputs = .command f :: rest ∧ decode f = .error (.reservedOpcode op) ∧
      step s = execReserved op { s with inputs := rest }) := by
  cases h : s.inputs with
  | nil => exact .inl ⟨rfl, by simp [step, takeInput, h]⟩
  | cons input rest =>
    cases input with
    | reset => exact .inr (.inl ⟨rest, rfl, by simp [step, takeInput, h]⟩)
    | command f =>
      cases hd : decode f with
      | ok i => exact .inr (.inr (.inl ⟨f, rest, i, rfl, hd, by simp [step, takeInput, h, hd]⟩))
      | error e =>
        obtain ⟨op⟩ := e
        exact .inr (.inr (.inr ⟨f, rest, op, rfl, hd, by simp [step, takeInput, h, hd]⟩))

end Sys2Proof.Machine
end

