-- ==== Sys2Proof/Laws/Commands.lean ====
section
/-! SUPPORT. What each command can do, said once: `exec_effect` gives, for every command in every state, the one effect of
the list `Effect` that takes place. Claims about all commands are derived from it by cases, without unfolding a meaning. -/

namespace Sys2Proof.Machine

/-! ### A command under way -/

/-- The state inside a command that started in `s`, after the transactions `events`, the block being `b` now. -/
def during (s : State) (events : List BusEvent) (b : Block) : State :=
  { withTrace s events with blk := b, response := none }

/-- The state after a command that started in `s`: its transactions, the block and the response it leaves. -/
def outcomeOf (s : State) (events : List BusEvent) (b : Block) (r : Response) : State :=
  { withTrace s events with blk := b, response := some r }

@[simp] theorem outcomeOf_blk (s : State) (events : List BusEvent) (b : Block) (r : Response) :
    (outcomeOf s events b r).blk = b := rfl
@[simp] theorem outcomeOf_inputs (s : State) (events : List BusEvent) (b : Block) (r : Response) :
    (outcomeOf s events b r).inputs = s.inputs := rfl
@[simp] theorem outcomeOf_answers (s : State) (events : List BusEvent) (b : Block) (r : Response) :
    (outcomeOf s events b r).answers = s.answers.drop events.length := rfl
@[simp] theorem outcomeOf_draws (s : State) (events : List BusEvent) (b : Block) (r : Response) :
    (outcomeOf s events b r).draws = s.draws + events.length := rfl
@[simp] theorem outcomeOf_pollBudget (s : State) (events : List BusEvent) (b : Block) (r : Response) :
    (outcomeOf s events b r).pollBudget = s.pollBudget := rfl
@[simp] theorem outcomeOf_trace (s : State) (events : List BusEvent) (b : Block) (r : Response) :
    (outcomeOf s events b r).trace = events := rfl
@[simp] theorem outcomeOf_response (s : State) (events : List BusEvent) (b : Block) (r : Response) :
    (outcomeOf s events b r).response = some r := rfl

theorem clearOutputs_eq_during (s : State) : clearOutputs s = during s [] s.blk := rfl

@[simp] theorem during_blk (s : State) (events : List BusEvent) (b : Block) : (during s events b).blk = b := rfl
@[simp] theorem during_pollBudget (s : State) (events : List BusEvent) (b : Block) :
    (during s events b).pollBudget = s.pollBudget := rfl
@[simp] theorem during_withBlk (s : State) (events : List BusEvent) (b b' : Block) :
    { during s events b with blk := b' } = during s events b' := rfl

@[simp] theorem record_during (s : State) (events : List BusEvent) (b : Block) (e : BusEvent) :
    record (during s events b) e = during s (events ++ [e]) b := by
  simp [record, during, withTrace, Nat.add_assoc]

@[simp] theorem answerAt_during (s : State) (events : List BusEvent) (b : Block) (k : Nat) (req : BusRequest) :
    answerAt (during s events b) k req = answerAt s (events.length + k) req := by
  simp [answerAt, during, withTrace, Nat.add_assoc]

@[simp] theorem reads_during (s : State) (events : List BusEvent) (b : Block) (k : Nat) (addr : Addr) (v : Byte) :
    reads (during s events b) k addr v ↔ reads s (events.length + k) addr v := by
  unfold reads; rw [answerAt_during]

@[simp] theorem readFails_during (s : State) (events : List BusEvent) (b : Block) (k : Nat) (addr : Addr) :
    readFails (during s events b) k addr ↔ readFails s (events.length + k) addr := by
  unfold readFails; rw [answerAt_during]

@[simp] theorem writes_during (s : State) (events : List BusEvent) (b : Block) (k : Nat) (addr : Addr) (v : Byte) :
    writes (during s events b) k addr v ↔ writes s (events.length + k) addr v := by
  unfold writes; rw [answerAt_during]

@[simp] theorem writeFails_during (s : State) (events : List BusEvent) (b : Block) (k : Nat) (addr : Addr) (v : Byte) :
    writeFails (during s events b) k addr v ↔ writeFails s (events.length + k) addr v := by
  unfold writeFails; rw [answerAt_during]

theorem conclude_go_during (isConfigure : Bool) (r : Response) (s : State) (events : List BusEvent) (b : Block) :
    conclude isConfigure (.go r (during s events b)) = outcomeOf s events b r := rfl

theorem conclude_commit_during (isConfigure : Bool) (s : State) (events : List BusEvent) (b b' : Block) :
    conclude isConfigure (commit b' (during s events b)) = outcomeOf s events b' (okResponse b'.ctl) := rfl

theorem conclude_fault_during (e : Raise) (s : State) (events : List BusEvent) (b : Block) (isConfigure : Bool)
    (h : raiseFaultCode e ≠ .none) :
    conclude isConfigure (.raised e (during s events b)) =
      outcomeOf s events (faultEntry isConfigure (raiseFaultCode e) (raiseInfo e) b) (errorResponse e .faulted) := by
  rcases applyError_cases isConfigure e (during s events b) with ⟨_, h'⟩ | ⟨h', _⟩
  · exact h'
  · exact absurd h' h

theorem conclude_rejection_during (e : Raise) (s : State) (events : List BusEvent) (b : Block) (isConfigure : Bool)
    (h : raiseFaultCode e = .none) :
    conclude isConfigure (.raised e (during s events b)) = outcomeOf s events b (errorResponse e b.ctl) := by
  rcases applyError_cases isConfigure e (during s events b) with ⟨h', _⟩ | ⟨_, h'⟩
  · exact absurd h h'
  · exact h'

/-- `faultEntry` of a command that is not CONFIGURE. -/
@[simp] theorem faultEntry_false (code : FaultCode) (info : BitVec 16) (b : Block) :
    faultEntry false code info b = faulted code info b := by
  simp [faultEntry, faulted]

theorem modifyRegister_during (addr : Addr) (change : Byte → Byte) (s : State) (events : List BusEvent) (b : Block) :
    (readFails s events.length addr ∧ modifyRegister addr change (during s events b) =
      .raised (.bus false addr) (during s (events ++ [.read addr none]) b)) ∨
    (∃ v, reads s events.length addr v ∧ writeFails s (events.length + 1) addr (change v) ∧
      modifyRegister addr change (during s events b) = .raised (.bus true addr)
        (during s (events ++ [.read addr (some v), .write addr (change v) false]) (setShadow b addr none))) ∨
    (∃ v, reads s events.length addr v ∧ writes s (events.length + 1) addr (change v) ∧
      modifyRegister addr change (during s events b) = .go ()
        (during s (events ++ [.read addr (some v), .write addr (change v) true]) (setShadow b addr (some (change v))))) := by
  have both : ∀ (e e' : BusEvent), events ++ [e, e'] = events ++ [e] ++ [e'] := fun e e' => by simp
  rcases modifyRegister_cases addr change (during s events b) with ⟨h, e⟩ | ⟨v, h, h', e⟩ | ⟨v, h, h', e⟩
  · exact .inl ⟨(readFails_during ..).mp h, by rw [e, record_during]⟩
  · refine .inr (.inl ⟨v, (reads_during ..).mp h, (writeFails_during ..).mp h', ?_⟩)
    rw [e, failedWrite, record_during, record_during, both]; rfl
  · refine .inr (.inr ⟨v, (reads_during ..).mp h, (writes_during ..).mp h', ?_⟩)
    rw [e, wrote, record_during, record_during, both]; rfl

theorem afterReads_during (xs : List (Addr × Byte)) (s : State) (events : List BusEvent) (b : Block) :
    afterReads xs (during s events b) = during s (events ++ readEvents xs) b := by
  induction xs generalizing events with
  | nil => simp [afterReads, readEvents]
  | cons x rest ih => rw [afterReads, record_during, ih]; simp [readEvents]

theorem afterWrites_during {ws : List (Addr × Byte)} (h : ∀ x ∈ ws, x.1 ≠ cr1Addr ∧ x.1 ≠ cr2Addr) (s : State)
    (events : List BusEvent) (b : Block) :
    afterWrites ws (during s events b) = during s (events ++ writeEvents ws) b := by
  induction ws generalizing events with
  | nil => simp [afterWrites, writeEvents]
  | cons x rest ih =>
    have hx := h x List.mem_cons_self
    have step_one : wrote (during s events b) x.1 x.2 = during s (events ++ [.write x.1 x.2 true]) b := by
      rw [wrote, record_during, during_withBlk, during_blk]; simp [setShadow, hx]
    rw [afterWrites, step_one, ih (fun y hy => h y (List.mem_cons_of_mem _ hy))]
    simp [writeEvents]

theorem readsAll_during (s : State) (events : List BusEvent) (b : Block) (xs : List (Addr × Byte)) :
    readsAll (during s events b) xs ↔ ∀ j x, xs[j]? = some x → reads s (events.length + j) x.1 x.2 := by
  unfold readsAll; simp only [reads_during]

theorem writesAll_clear (s : State) (ws : List (Addr × Byte)) : writesAll (during s [] s.blk) ws ↔ writesAll s ws := by
  unfold writesAll; simp

/-! ### The program's bytes -/

theorem programWrites_eq (startCode incCode : BitVec 24) (ninc : BitVec 9) (settle : BitVec 10) (mult : BitVec 2) :
    programWrites startCode incCode ninc settle mult = sweepProgramBytes startCode incCode ninc settle mult := by
  have h88 : (nincWord ninc).extractLsb' 8 8 = 0#7 ++ ninc.extractLsb' 8 1 := by
    apply BitVec.eq_of_getLsbD_eq
    intro i hi
    rw [BitVec.getLsbD_append]
    interval_cases i <;> simp [nincWord]
  have h89 : (nincWord ninc).extractLsb' 0 8 = ninc.extractLsb' 0 8 := by
    apply BitVec.eq_of_getLsbD_eq
    intro i hi
    interval_cases i <;> simp [nincWord]
  have h8A : (settleWord settle mult).extractLsb' 8 8 = 0#4 ++ mult ++ settle.extractLsb' 8 2 := by
    apply BitVec.eq_of_getLsbD_eq
    intro i hi
    rw [BitVec.getLsbD_extractLsb', settleWord, BitVec.getLsbD_append, BitVec.getLsbD_append, BitVec.getLsbD_append,
      BitVec.getLsbD_append]
    interval_cases i <;> simp
  have h8B : (settleWord settle mult).extractLsb' 0 8 = settle.extractLsb' 0 8 := by
    apply BitVec.eq_of_getLsbD_eq
    intro i hi
    have low : i < 10 := by omega
    rw [BitVec.getLsbD_extractLsb', BitVec.getLsbD_extractLsb', settleWord, BitVec.getLsbD_append]
    simp [low]
  simp only [programWrites, sweepProgramBytes, codeBytes, h88, h89, h8A, h8B]

theorem sweepProgramBytes_plain (startCode incCode : BitVec 24) (ninc : BitVec 9) (settle : BitVec 10) (mult : BitVec 2) :
    ∀ x ∈ sweepProgramBytes startCode incCode ninc settle mult, x.1 ≠ cr1Addr ∧ x.1 ≠ cr2Addr := by
  simp [sweepProgramBytes, cr1Addr, cr2Addr]

/-! ### The effects -/

/-- What a control-register command makes of the block when both its transactions succeed, the shadows apart. -/
def registerCommit : Instr → Block → Block
  | .standby, b => { clearFault (clearDatapath b) with ctl := .standby, sub := .none }
  | .powerDown, b => { clearDatapath b with ctl := .idle, sub := .none }
  | .init, b => { clearDatapath b with ctl := .initialized, sub := .none }
  | .start, b => { b with ctl := .sweeping, sub := .started, failPolls := 0 }
  | _, b => b

@[simp] theorem registerCommit_configured (i : Instr) (b : Block) : (registerCommit i b).configured = b.configured := by cases i <;> rfl
@[simp] theorem registerCommit_pStart (i : Instr) (b : Block) : (registerCommit i b).pStart = b.pStart := by cases i <;> rfl
@[simp] theorem registerCommit_pInc (i : Instr) (b : Block) : (registerCommit i b).pInc = b.pInc := by cases i <;> rfl
@[simp] theorem registerCommit_pClk (i : Instr) (b : Block) : (registerCommit i b).pClk = b.pClk := by cases i <;> rfl
@[simp] theorem registerCommit_pNinc (i : Instr) (b : Block) : (registerCommit i b).pNinc = b.pNinc := by cases i <;> rfl
@[simp] theorem registerCommit_pSettle (i : Instr) (b : Block) : (registerCommit i b).pSettle = b.pSettle := by cases i <;> rfl
@[simp] theorem registerCommit_pMult (i : Instr) (b : Block) : (registerCommit i b).pMult = b.pMult := by cases i <;> rfl
@[simp] theorem registerCommit_pRep (i : Instr) (b : Block) : (registerCommit i b).pRep = b.pRep := by cases i <;> rfl
@[simp] theorem registerCommit_pStartCode (i : Instr) (b : Block) : (registerCommit i b).pStartCode = b.pStartCode := by cases i <;> rfl
@[simp] theorem registerCommit_pIncCode (i : Instr) (b : Block) : (registerCommit i b).pIncCode = b.pIncCode := by cases i <;> rfl
@[simp] theorem registerCommit_cr1Shadow (i : Instr) (b : Block) : (registerCommit i b).cr1Shadow = b.cr1Shadow := by cases i <;> rfl
@[simp] theorem registerCommit_cr2Shadow (i : Instr) (b : Block) : (registerCommit i b).cr2Shadow = b.cr2Shadow := by cases i <;> rfl

/-- The response of CONFIGURE's first failed check (60_exceptions.md R209). -/
def configureRejection (start inc clk : BitVec 32) (mult : BitVec 2) (b : Block) : Response :=
  if encodeFrequency start clk = none then rejection .frequencyOutOfRange 1 b
  else if encodeFrequency inc clk = none then rejection .frequencyOutOfRange 2 b
  else if mult = 0b10 then rejection .configInvalid 1 b
  else rejection .configInvalid 2 b

/-- `Effect i s events b r`: in `s` the command `i` may issue the transactions `events`, leave the block `b` and answer
`r`. The answers that lead to it are conditions on `s`. -/
inductive Effect : Instr → State → List BusEvent → Block → Response → Prop
  | illegal (i : Instr) (s : State) (h : legal i s.blk.ctl s.blk.configured = false) :
      Effect i s [] s.blk (rejection .illegalCommand (illegalInfo s.blk.ctl (opcodeOf i)) s.blk)
  | encoded (freq clk : BitVec 32) (s : State) (code : BitVec 24) (h : encodeFrequency freq clk = some code) :
      Effect (.encode freq clk) s [] s.blk { status := .ok, ctl := s.blk.ctl, code := code }
  | notEncoded (freq clk : BitVec 32) (s : State) (h : encodeFrequency freq clk = none) :
      Effect (.encode freq clk) s [] s.blk (rejection .frequencyOutOfRange 0 s.blk)
  | notConfigured (start inc clk : BitVec 32) (ninc : BitVec 9) (settle : BitVec 10) (mult : BitVec 2) (rep : BitVec 16)
      (s : State) (hs : s.blk.ctl = .idle ∨ s.blk.ctl = .standby)
      (h : encodeFrequency start clk = none ∨ encodeFrequency inc clk = none ∨ mult = 0b10 ∨ rep = 0) :
      Effect (.configure start inc clk ninc settle mult rep) s [] s.blk (configureRejection start inc clk mult s.blk)
  | configured (start inc clk : BitVec 32) (ninc : BitVec 9) (settle : BitVec 10) (mult : BitVec 2) (rep : BitVec 16)
      (s : State) (startCode incCode : BitVec 24) (hs : s.blk.ctl = .idle ∨ s.blk.ctl = .standby)
      (hsc : encodeFrequency start clk = some startCode) (hic : encodeFrequency inc clk = some incCode)
      (hm : mult ≠ 0b10) (hr : rep ≠ 0) (hw : writesAll s (sweepProgramBytes startCode incCode ninc settle mult)) :
      Effect (.configure start inc clk ninc settle mult rep) s
        (writeEvents (sweepProgramBytes startCode incCode ninc settle mult))
        (loadProgram start inc clk ninc settle mult rep startCode incCode s.blk) (okResponse s.blk.ctl)
  | configureFailed (start inc clk : BitVec 32) (ninc : BitVec 9) (settle : BitVec 10) (mult : BitVec 2) (rep : BitVec 16)
      (s : State) (startCode incCode : BitVec 24) (done later : List (Addr × Byte)) (x : Addr × Byte)
      (hs : s.blk.ctl = .idle ∨ s.blk.ctl = .standby)
      (hsc : encodeFrequency start clk = some startCode) (hic : encodeFrequency inc clk = some incCode)
      (hm : mult ≠ 0b10) (hr : rep ≠ 0)
      (hx : sweepProgramBytes startCode incCode ninc settle mult = done ++ x :: later)
      (hw : writesAll s done) (hf : writeFails s done.length x.1 x.2) :
      Effect (.configure start inc clk ninc settle mult rep) s (writeEvents done ++ [.write x.1 x.2 false])
        (faultEntry true .bus (busInfo true x.1) s.blk) (faultResponse .ioError (busInfo true x.1))
  | registerReadFailed (i : Instr) (s : State) (addr : Addr) (change : Byte → Byte)
      (hi : registerChange i = some (addr, change)) (hl : legal i s.blk.ctl s.blk.configured = true)
      (hr : readFails s 0 addr) :
      Effect i s [.read addr none] (faulted .bus (busInfo false addr) s.blk) (faultResponse .ioError (busInfo false addr))
  | registerWriteFailed (i : Instr) (s : State) (addr : Addr) (change : Byte → Byte) (v : Byte)
      (hi : registerChange i = some (addr, change)) (hl : legal i s.blk.ctl s.blk.configured = true)
      (hr : reads s 0 addr v) (hw : writeFails s 1 addr (change v)) :
      Effect i s [.read addr (some v), .write addr (change v) false]
        (faulted .bus (busInfo true addr) (setShadow s.blk addr none)) (faultResponse .ioError (busInfo true addr))
  | registerChanged (i : Instr) (s : State) (addr : Addr) (change : Byte → Byte) (v : Byte)
      (hi : registerChange i = some (addr, change)) (hl : legal i s.blk.ctl s.blk.configured = true)
      (hr : reads s 0 addr v) (hw : writes s 1 addr (change v)) :
      Effect i s [.read addr (some v), .write addr (change v) true]
        (registerCommit i (setShadow s.blk addr (some (change v))))
        (okResponse (registerCommit i (setShadow s.blk addr (some (change v)))).ctl)
  | pollReadFailed (s : State) (done : List (Addr × Byte)) (addr : Addr) (later : List Addr)
      (hs : s.blk.ctl = .sweeping) (hd : done.map Prod.fst ++ addr :: later = [0x8F, 0x94, 0x95, 0x96, 0x97])
      (hr : readsAll s done) (hv : ∀ st, done.head? = some (0x8F, st) → statusValid st = true)
      (hf : readFails s done.length addr) :
      Effect .poll s (readEvents done ++ [.read addr none]) (faulted .bus (busInfo false addr) s.blk)
        (faultResponse .ioError (busInfo false addr))
  | pollCounted (s : State) (st : Byte) (hs : s.blk.ctl = .sweeping) (hr : reads s 0 0x8F st)
      (hv : statusValid st = false) (hb : s.blk.failPolls.toNat + 1 < s.pollBudget.toNat) :
      Effect .poll s [.read 0x8F (some st)] { s.blk with failPolls := s.blk.failPolls + 1 } (okResponse .sweeping)
  | pollTimedOut (s : State) (st : Byte) (hs : s.blk.ctl = .sweeping) (hr : reads s 0 0x8F st)
      (hv : statusValid st = false) (hb : s.pollBudget.toNat ≤ s.blk.failPolls.toNat + 1) :
      Effect .poll s [.read 0x8F (some st)] (faulted .sweepTimeout 0 s.blk) (faultResponse .sweepTimeout 0)
  | pollModeReadFailed (s : State) (st rh rl ih il : Byte) (m : Mode) (hs : s.blk.ctl = .sweeping)
      (hr : readsAll s (samplePoll st rh rl ih il)) (hv : statusValid st = true)
      (hm : (s.blk.rc.toNat + 1 < s.blk.pRep.toNat ∧ m = .repeat) ∨
        (s.blk.pRep.toNat ≤ s.blk.rc.toNat + 1 ∧ statusDone st = false ∧ s.blk.idx ≠ s.blk.pNinc ∧ m = .increment))
      (hf : readFails s 5 0x80) :
      Effect .poll s (readEvents (samplePoll st rh rl ih il) ++ [.read 0x80 none])
        (faulted .bus (busInfo false 0x80) s.blk) (faultResponse .ioError (busInfo false 0x80))
  | pollModeWriteFailed (s : State) (st rh rl ih il v : Byte) (m : Mode) (hs : s.blk.ctl = .sweeping)
      (hr : readsAll s (samplePoll st rh rl ih il)) (hv : statusValid st = true)
      (hm : (s.blk.rc.toNat + 1 < s.blk.pRep.toNat ∧ m = .repeat) ∨
        (s.blk.pRep.toNat ≤ s.blk.rc.toNat + 1 ∧ statusDone st = false ∧ s.blk.idx ≠ s.blk.pNinc ∧ m = .increment))
      (hr5 : reads s 5 0x80 v) (hf : writeFails s 6 0x80 (modeByte m v)) :
      Effect .poll s
        (readEvents (samplePoll st rh rl ih il) ++ [.read 0x80 (some v), .write 0x80 (modeByte m v) false])
        (faulted .bus (busInfo true 0x80) (setShadow s.blk 0x80 none)) (faultResponse .ioError (busInfo true 0x80))
  | pollRepeated (s : State) (st rh rl ih il v : Byte) (hs : s.blk.ctl = .sweeping)
      (hr : readsAll s (samplePoll st rh rl ih il)) (hv : statusValid st = true)
      (hm : s.blk.rc.toNat + 1 < s.blk.pRep.toNat)
      (hr5 : reads s 5 0x80 v) (hw : writes s 6 0x80 (modeByte .repeat v)) :
      Effect .poll s
        (readEvents (samplePoll st rh rl ih il) ++ [.read 0x80 (some v), .write 0x80 (modeByte .repeat v) true])
        { s.blk with
          sumRe := accumulate s.blk.sumRe (word16 rh rl)
          sumIm := accumulate s.blk.sumIm (word16 ih il)
          rc := s.blk.rc + 1
          sub := .repeating
          failPolls := 0
          cr1Shadow := some (modeByte .repeat v) }
        (sampleResponse .sweeping (word16 rh rl) (word16 ih il))
  | pollAdvanced (s : State) (st rh rl ih il v : Byte) (hs : s.blk.ctl = .sweeping)
      (hr : readsAll s (samplePoll st rh rl ih il)) (hv : statusValid st = true)
      (hm : s.blk.pRep.toNat ≤ s.blk.rc.toNat + 1) (hd : statusDone st = false) (hi : s.blk.idx ≠ s.blk.pNinc)
      (hr5 : reads s 5 0x80 v) (hw : writes s 6 0x80 (modeByte .increment v)) :
      Effect .poll s
        (readEvents (samplePoll st rh rl ih il) ++ [.read 0x80 (some v), .write 0x80 (modeByte .increment v) true])
        { s.blk with
          idx := s.blk.idx + 1
          rc := 0
          sumRe := 0
          sumIm := 0
          sub := .advancing
          failPolls := 0
          cr1Shadow := some (modeByte .increment v) }
        (pointResponse .sweeping (word16 rh rl) (word16 ih il) s.blk)
  | pollCompleted (s : State) (st rh rl ih il : Byte) (hs : s.blk.ctl = .sweeping)
      (hr : readsAll s (samplePoll st rh rl ih il)) (hv : statusValid st = true)
      (hm : s.blk.pRep.toNat ≤ s.blk.rc.toNat + 1) (hd : statusDone st = true) (hi : s.blk.idx = s.blk.pNinc) :
      Effect .poll s (readEvents (samplePoll st rh rl ih il))
        { s.blk with ctl := .complete, sub := .none, rc := 0, sumRe := 0, sumIm := 0, failPolls := 0 }
        (pointResponse .complete (word16 rh rl) (word16 ih il) s.blk)
  | pollDisagreed (s : State) (st rh rl ih il : Byte) (hs : s.blk.ctl = .sweeping)
      (hr : readsAll s (samplePoll st rh rl ih il)) (hv : statusValid st = true)
      (hm : s.blk.pRep.toNat ≤ s.blk.rc.toNat + 1)
      (hd : (statusDone st = true ∧ s.blk.idx ≠ s.blk.pNinc) ∨ (statusDone st = false ∧ s.blk.idx = s.blk.pNinc)) :
      Effect .poll s (readEvents (samplePoll st rh rl ih il))
        (faulted .unexpectedStatus (statusInfo st) s.blk) (faultResponse .ioError (statusInfo st))

/-! ### The commands -/

theorem rangeByte_eq (c : BitVec 2) : rangeByte c = fun v => (v &&& 0xF9) ||| (c.setWidth 8 <<< 1) := rfl

theorem gainByte_eq (c : BitVec 1) : gainByte c = fun v => (v &&& 0xFE) ||| c.setWidth 8 := rfl

theorem clockByte_eq (c : BitVec 1) : clockByte c = fun v => (v &&& 0xF7) ||| (c.setWidth 8 <<< 3) := rfl

/-- The control-register commands, once for all: `f` is what the command commits. -/
theorem register_effect (i : Instr) (s : State) (addr : Addr) (change : Byte → Byte)
    (hi : registerChange i = some (addr, change)) (hl : legal i s.blk.ctl s.blk.configured = true) :
    ∃ events b r, Effect i s events b r ∧
      conclude false (andThen (modifyRegister addr change (clearOutputs s)) fun _ t => commit (registerCommit i t.blk) t) =
        outcomeOf s events b r := by
  rw [clearOutputs_eq_during]
  rcases modifyRegister_during addr change s [] s.blk with ⟨h, e⟩ | ⟨v, h, h', e⟩ | ⟨v, h, h', e⟩ <;> rw [e]
  · refine ⟨_, _, _, .registerReadFailed i s addr change hi hl h, ?_⟩
    rw [andThen_raised, conclude_fault_during _ _ _ _ _ (by simp [raiseFaultCode]), faultEntry_false]; rfl
  · refine ⟨_, _, _, .registerWriteFailed i s addr change v hi hl h h', ?_⟩
    rw [andThen_raised, conclude_fault_during _ _ _ _ _ (by simp [raiseFaultCode]), faultEntry_false]; rfl
  · exact ⟨_, _, _, .registerChanged i s addr change v hi hl h h', rfl⟩

theorem illegal_effect (i : Instr) (s : State) (isConfigure : Bool) (op : BitVec 8) (hop : opcodeOf i = op)
    (h : legal i s.blk.ctl s.blk.configured = false) :
    ∃ events b r, Effect i s events b r ∧
      conclude isConfigure (raiseIllegal op (clearOutputs s)) = outcomeOf s events b r := by
  subst hop
  exact ⟨_, _, _, .illegal i s h, rfl⟩

theorem field_effect (i : Instr) (s : State) (op : BitVec 8) (addr : Addr) (change : Byte → Byte)
    (hop : opcodeOf i = op) (hi : registerChange i = some (addr, change)) (hc : ∀ b, registerCommit i b = b)
    (hl : legal i s.blk.ctl s.blk.configured = decide (s.blk.ctl = .idle ∨ s.blk.ctl = .standby)) :
    ∃ events b r, Effect i s events b r ∧ conclude false (fieldBody op addr change (clearOutputs s)) =
      outcomeOf s events b r := by
  unfold fieldBody
  split
  · rename_i hn
    refine illegal_effect i s false op hop ?_
    rw [hl, decide_eq_false_iff_not]; exact fun h => h.elim hn.1 hn.2
  · rename_i hn
    have := register_effect i s addr change hi (by
      rw [hl, decide_eq_true_iff]
      by_cases h : s.blk.ctl = .idle
      · exact .inl h
      · exact .inr (not_not.mp fun h' => hn ⟨h, h'⟩))
    simpa only [hc] using this

theorem encode_effect (freq clk : BitVec 32) (s : State) :
    ∃ events b r, Effect (.encode freq clk) s events b r ∧
      conclude false (encodeBody freq clk (clearOutputs s)) = outcomeOf s events b r := by
  unfold encodeBody
  cases h : encodeFrequency freq clk with
  | none => exact ⟨_, _, _, .notEncoded freq clk s h, rfl⟩
  | some code => exact ⟨_, _, _, .encoded freq clk s code h, rfl⟩

theorem configure_effect (start inc clk : BitVec 32) (ninc : BitVec 9) (settle : BitVec 10) (mult : BitVec 2)
    (rep : BitVec 16) (s : State) :
    ∃ events b r, Effect (.configure start inc clk ninc settle mult rep) s events b r ∧
      conclude true (configureBody start inc clk ninc settle mult rep (clearOutputs s)) = outcomeOf s events b r := by
  unfold configureBody
  split
  · rename_i hn
    refine illegal_effect _ s true _ rfl ?_
    revert hn; simp only [clearOutputs_blk]
    cases s.blk.ctl <;> simp [legal]
  · rename_i hn
    have hs : s.blk.ctl = .idle ∨ s.blk.ctl = .standby := by
      by_cases h : s.blk.ctl = .idle
      · exact .inl h
      · exact .inr (not_not.mp fun h' => hn ⟨h, h'⟩)
    cases hsc : encodeFrequency start clk with
    | none =>
      refine ⟨_, _, _, .notConfigured start inc clk ninc settle mult rep s hs (.inl hsc), ?_⟩
      simp only [configureRejection, hsc, if_true]; rfl
    | some startCode =>
      cases hic : encodeFrequency inc clk with
      | none =>
        refine ⟨_, _, _, .notConfigured start inc clk ninc settle mult rep s hs (.inr (.inl hic)), ?_⟩
        simp only [configureRejection, hsc, hic, if_true, reduceCtorEq, if_false]; rfl
      | some incCode =>
        simp only
        split
        · rename_i hm
          refine ⟨_, _, _, .notConfigured start inc clk ninc settle mult rep s hs (.inr (.inr (.inl hm))), ?_⟩
          simp only [configureRejection, hsc, hic, hm, if_true, reduceCtorEq, if_false]; rfl
        · rename_i hm
          split
          · rename_i hr
            refine ⟨_, _, _, .notConfigured start inc clk ninc settle mult rep s hs (.inr (.inr (.inr hr))), ?_⟩
            simp only [configureRejection, hsc, hic, hm, reduceCtorEq, if_false]; rfl
          · rename_i hr
            rw [programWrites_eq, clearOutputs_eq_during]
            have plain := sweepProgramBytes_plain startCode incCode ninc settle mult
            rcases memWrites_cases (sweepProgramBytes startCode incCode ninc settle mult) (during s [] s.blk) with
              ⟨hw, e⟩ | ⟨done, x, later, hx, hw, hf, e⟩
            · refine ⟨_, _, _, .configured start inc clk ninc settle mult rep s startCode incCode hs hsc hic hm hr
                ((writesAll_clear ..).mp hw), ?_⟩
              rw [e, andThen_go, afterWrites_during plain]; rfl
            · refine ⟨_, _, _, .configureFailed start inc clk ninc settle mult rep s startCode incCode done later x hs hsc
                hic hm hr hx ((writesAll_clear ..).mp hw) ?_, ?_⟩
              · simpa using hf
              · have plain_done : ∀ y ∈ done, y.1 ≠ cr1Addr ∧ y.1 ≠ cr2Addr := fun y hy => plain y (by rw [hx]; simp [hy])
                have plain_x := plain x (by rw [hx]; simp)
                rw [e, andThen_raised, failedWrite, afterWrites_during plain_done, record_during, during_withBlk,
                  conclude_fault_during _ _ _ _ _ (by simp [raiseFaultCode])]
                simp only [setShadow, plain_x, if_false, during_blk, List.nil_append]; rfl

theorem poll_effect (s : State) :
    ∃ events b r, Effect .poll s events b r ∧ conclude false (pollBody (clearOutputs s)) = outcomeOf s events b r := by
  unfold pollBody
  split
  · rename_i hn
    refine illegal_effect _ s false _ rfl ?_
    revert hn; simp only [clearOutputs_blk]
    cases s.blk.ctl <;> simp [legal]
  rename_i hn
  have hs : s.blk.ctl = .sweeping := not_not.mp hn
  rw [clearOutputs_eq_during]
  rcases andThen_memRead_cases statusAddr (during s [] s.blk) _ with ⟨st, h0, e⟩ | ⟨h0, e⟩ <;> rw [e]
  swap
  · refine ⟨_, _, _, .pollReadFailed s [] 0x8F [0x94, 0x95, 0x96, 0x97] hs rfl (readsAll_nil s) (by simp)
      ((readFails_during ..).mp h0), ?_⟩
    rw [record_during, conclude_fault_during _ _ _ _ _ (by simp [raiseFaultCode]), faultEntry_false]; rfl
  replace h0 : reads s 0 0x8F st := (reads_during ..).mp h0
  rw [record_during]
  split
  swap
  · rename_i hv
    replace hv : statusValid st = false := by simpa using hv
    unfold pollEmpty
    split
    · rename_i hb
      refine ⟨_, _, _, .pollTimedOut s st hs h0 hv hb, ?_⟩
      rw [conclude_fault_during _ _ _ _ _ (by simp [raiseFaultCode]), faultEntry_false]; rfl
    · rename_i hb
      refine ⟨_, _, _, .pollCounted s st hs h0 hv (Nat.lt_of_not_le hb), ?_⟩
      rw [conclude_commit_during]
      simp only [during_blk, hs]; rfl
  rename_i hv
  rcases readSample_cases (during s ([] ++ [.read statusAddr (some st)]) s.blk) with
    ⟨rh, rl, ih, il, hr, e'⟩ | ⟨done, addr, later, hd, hr, hf, e'⟩ <;> rw [e']
  swap
  · have hall : readsAll s ((0x8F, st) :: done) := by
      intro j x hj
      cases j with
      | zero => simp only [List.getElem?_cons_zero, Option.some.injEq] at hj; subst hj; exact h0
      | succ j =>
        have := (readsAll_during ..).mp hr j x (by simpa using hj)
        simpa [Nat.add_comm] using this
    refine ⟨_, _, _, .pollReadFailed s ((0x8F, st) :: done) addr later hs ?_ hall ?_ ?_, ?_⟩
    · simp [hd]
    · intro st' h; simp at h; rw [← h]; exact hv
    · simpa [Nat.add_comm] using hf
    · rw [andThen_raised, afterReads_during, record_during, conclude_fault_during _ _ _ _ _ (by simp [raiseFaultCode]),
        faultEntry_false]
      rfl
  have hall : readsAll s (samplePoll st rh rl ih il) := by
    intro j x hj
    cases j with
    | zero => simp only [samplePoll, List.getElem?_cons_zero, Option.some.injEq] at hj; subst hj; exact h0
    | succ j =>
      have := (readsAll_during ..).mp hr j x (by simpa [samplePoll] using hj)
      simpa [Nat.add_comm] using this
  rw [andThen_go, afterReads_during]
  have events_eq : [] ++ [BusEvent.read statusAddr (some st)] ++ readEvents [(0x94, rh), (0x95, rl), (0x96, ih), (0x97, il)]
      = readEvents (samplePoll st rh rl ih il) := rfl
  have five : (readEvents (samplePoll st rh rl ih il)).length = 5 := rfl
  rw [events_eq]
  simp only
  unfold pollSample
  split
  · rename_i hm
    unfold pollRepeat setMode
    rcases modifyRegister_during cr1Addr (modeByte .repeat) s (readEvents (samplePoll st rh rl ih il)) s.blk with
      ⟨h, e⟩ | ⟨v, h, h', e⟩ | ⟨v, h, h', e⟩ <;> rw [e]
    · refine ⟨_, _, _, .pollModeReadFailed s st rh rl ih il .repeat hs hall hv (.inl ⟨hm, rfl⟩) h, ?_⟩
      rw [andThen_raised, conclude_fault_during _ _ _ _ _ (by simp [raiseFaultCode]), faultEntry_false]; rfl
    · refine ⟨_, _, _, .pollModeWriteFailed s st rh rl ih il v .repeat hs hall hv (.inl ⟨hm, rfl⟩) h h', ?_⟩
      rw [andThen_raised, conclude_fault_during _ _ _ _ _ (by simp [raiseFaultCode]), faultEntry_false]; rfl
    · exact ⟨_, _, _, .pollRepeated s st rh rl ih il v hs hall hv hm h h', rfl⟩
  rename_i hm
  replace hm := Nat.le_of_not_lt hm
  split
  · rename_i hd
    unfold pollAdvance setMode
    rcases modifyRegister_during cr1Addr (modeByte .increment) s (readEvents (samplePoll st rh rl ih il)) s.blk with
      ⟨h, e⟩ | ⟨v, h, h', e⟩ | ⟨v, h, h', e⟩ <;> rw [e]
    · refine ⟨_, _, _, .pollModeReadFailed s st rh rl ih il .increment hs hall hv (.inr ⟨hm, hd.1, hd.2, rfl⟩) h, ?_⟩
      rw [andThen_raised, conclude_fault_during _ _ _ _ _ (by simp [raiseFaultCode]), faultEntry_false]; rfl
    · refine ⟨_, _, _, .pollModeWriteFailed s st rh rl ih il v .increment hs hall hv (.inr ⟨hm, hd.1, hd.2, rfl⟩) h h', ?_⟩
      rw [andThen_raised, conclude_fault_during _ _ _ _ _ (by simp [raiseFaultCode]), faultEntry_false]; rfl
    · exact ⟨_, _, _, .pollAdvanced s st rh rl ih il v hs hall hv hm hd.1 hd.2 h h', rfl⟩
  rename_i hd
  split
  · rename_i hd'
    exact ⟨_, _, _, .pollCompleted s st rh rl ih il hs hall hv hm hd'.1 hd'.2, rfl⟩
  · rename_i hd'
    refine ⟨_, _, _, .pollDisagreed s st rh rl ih il hs hall hv hm ?_, ?_⟩
    · simp only [during_blk] at hd hd'
      cases hdone : statusDone st with
      | false => exact .inr ⟨rfl, not_not.mp fun h => hd ⟨hdone, h⟩⟩
      | true => exact .inl ⟨rfl, fun h => hd' ⟨hdone, h⟩⟩
    · rw [conclude_fault_during _ _ _ _ _ (by simp [raiseFaultCode]), faultEntry_false]; rfl

/-- Everything a command can do: one of the effects of the list `Effect`, and the next state is its outcome. -/
theorem exec_effect (i : Instr) (s : State) :
    ∃ events b r, Effect i s events b r ∧ exec i s = .next (outcomeOf s events b r) := by
  suffices h : ∃ (isConfigure : Bool) (body : State → Progress Response), exec i s = .next (conclude isConfigure (body (clearOutputs s))) ∧
      ∃ events b r, Effect i s events b r ∧ conclude isConfigure (body (clearOutputs s)) = outcomeOf s events b r by
    obtain ⟨c, body, he, events, b, r, h1, h2⟩ := h
    exact ⟨events, b, r, h1, by rw [he, h2]⟩
  cases i with
  | encode freq clk => exact ⟨false, encodeBody freq clk, rfl, encode_effect freq clk s⟩
  | configure start inc clk ninc settle mult rep =>
    exact ⟨true, configureBody start inc clk ninc settle mult rep, rfl, configure_effect ..⟩
  | setRange c =>
    exact ⟨false, _, rfl, field_effect _ s _ _ _ rfl rfl (fun _ => rfl) (by cases s.blk.ctl <;> simp [legal])⟩
  | setGain c =>
    exact ⟨false, _, rfl, field_effect _ s _ _ _ rfl rfl (fun _ => rfl) (by cases s.blk.ctl <;> simp [legal])⟩
  | setClockSource c =>
    exact ⟨false, _, rfl, field_effect _ s _ _ _ rfl rfl (fun _ => rfl) (by cases s.blk.ctl <;> simp [legal])⟩
  | standby => exact ⟨false, standbyBody, rfl, register_effect .standby s _ _ rfl rfl⟩
  | powerDown =>
    refine ⟨false, powerDownBody, rfl, ?_⟩
    unfold powerDownBody
    split
    · rename_i h
      exact illegal_effect _ s false _ rfl (by rw [clearOutputs_blk] at h; rw [h]; rfl)
    · rename_i h
      exact register_effect .powerDown s _ _ rfl (by
        rw [clearOutputs_blk] at h; revert h; cases s.blk.ctl <;> simp [legal])
  | init =>
    refine ⟨false, initBody, rfl, ?_⟩
    unfold initBody
    split
    · rename_i h
      exact illegal_effect _ s false _ rfl (by
        rw [clearOutputs_blk] at h; revert h; cases s.blk.ctl <;> simp [legal])
    · rename_i h
      exact register_effect .init s _ _ rfl (by
        rw [clearOutputs_blk] at h; revert h; cases s.blk.ctl <;> simp [legal])
  | start =>
    refine ⟨false, startBody, rfl, ?_⟩
    unfold startBody
    split
    · rename_i h
      exact illegal_effect _ s false _ rfl (by
        rw [clearOutputs_blk] at h; revert h; cases s.blk.ctl <;> simp [legal])
    · rename_i h
      exact register_effect .start s _ _ rfl (by
        rw [clearOutputs_blk] at h; revert h; cases s.blk.ctl <;> simp [legal])
  | poll => exact ⟨false, pollBody, rfl, poll_effect s⟩

/-- The same, read from a next state. -/
theorem effect_of_exec {i : Instr} {s t : State} (h : exec i s = .next t) :
    ∃ events b r, Effect i s events b r ∧ t = outcomeOf s events b r := by
  obtain ⟨events, b, r, he, hx⟩ := exec_effect i s
  rw [h] at hx
  cases hx
  exact ⟨events, b, r, he, rfl⟩

/-- CONFIGURE's first failed check is a rejection of the block as it is. -/
theorem configureRejection_eq (start inc clk : BitVec 32) (mult : BitVec 2) (b : Block) :
    ∃ status info, configureRejection start inc clk mult b = rejection status info b ∧
      (status = .frequencyOutOfRange ∨ status = .configInvalid) := by
  unfold configureRejection
  split
  · exact ⟨_, _, rfl, .inl rfl⟩
  split
  · exact ⟨_, _, rfl, .inl rfl⟩
  split
  · exact ⟨_, _, rfl, .inr rfl⟩
  · exact ⟨_, _, rfl, .inr rfl⟩

/-- The invariant speaks of the block and of the poll budget alone. -/
theorem inv_of_blk {s t : State} (hb : t.blk = s.blk) (hp : t.pollBudget = s.pollBudget) (h : Inv s) : Inv t := by
  obtain ⟨h1, h2, h3, h4, h5, h6, h7, h8⟩ := h
  exact ⟨hp ▸ h1, hb ▸ h2, by unfold countsInRange; rw [hb, hp]; exact h3, hb ▸ h4, hb ▸ h5, hb ▸ h6, hb ▸ h7, hb ▸ h8⟩

end Sys2Proof.Machine
end

