-- ==== Sys2Proof/Laws/PerInstr.lean ====
section
/-! SUPPORT. Statements made per command: that each command's frame carries its opcode in its low byte (30_encoding.md
R70, R71). -/

namespace Sys2Proof.Laws.EncodesOpcode

/-- The low byte of a command's frame is the command's opcode (30_encoding.md R71). -/
def Statement (i : Instr) : Prop := frameOp (encode i) = opcodeOf i

/-- The low byte of a packed frame is its opcode. -/
theorem frameOp_packFrame (e d c b a : BitVec 32) (op : BitVec 8) : frameOp (packFrame e d c b a op) = op := by
  unfold frameOp packFrame
  exact BitVec.extractLsb'_append_eq_right

theorem encode (freq clk : BitVec 32) : Statement (.encode freq clk) := frameOp_packFrame ..

theorem configure (start inc clk : BitVec 32) (ninc : BitVec 9) (settle : BitVec 10) (mult : BitVec 2)
    (rep : BitVec 16) : Statement (.configure start inc clk ninc settle mult rep) := frameOp_packFrame ..

theorem setRange (rangeCode : BitVec 2) : Statement (.setRange rangeCode) := frameOp_packFrame ..

theorem setGain (gainCode : BitVec 1) : Statement (.setGain gainCode) := frameOp_packFrame ..

theorem setClockSource (clkSrc : BitVec 1) : Statement (.setClockSource clkSrc) := frameOp_packFrame ..

theorem standby : Statement .standby := frameOp_packFrame ..

theorem powerDown : Statement .powerDown := frameOp_packFrame ..

theorem init : Statement .init := frameOp_packFrame ..

theorem start : Statement .start := frameOp_packFrame ..

theorem poll : Statement .poll := frameOp_packFrame ..

end Sys2Proof.Laws.EncodesOpcode
end

