-- ==== Sys2Proof/Tests/Slice0.lean ====
section
/-! SUPPORT. The model's own tests. The frames, responses and bytes expected here are those of spec/95_test_vectors.md (the
vector's name stands with each test), or words written out by hand from 30_encoding.md. At the end stands, for every
statement with hypotheses, a witness that meets them all together. -/

namespace Sys2Proof.Tests

open Sys2Proof Sys2Proof.Machine

set_option maxRecDepth 4000

/-! ### Small states -/

/-- A state with the block `b` and these device answers to come; `POLL_BUDGET` is 4, as in vector table V-P. -/
def bench (b : Block) (answers : List BusAnswer) : State :=
  { blk := b, inputs := [], answers := answers, draws := 0, pollBudget := 4, trace := [], response := none }

/-- A block in `ctl` with the program of P1 loaded: 30000, 10, 16776000, 1, 15, X1, 2. -/
def loaded (ctl : Ctl) : Block :=
  { Block.reset with
    ctl := ctl, configured := true, pStart := 30000, pInc := 10, pClk := 16776000, pNinc := 1, pSettle := 15, pMult := 0
    pRep := 2, pStartCode := 0x3A9916, pIncCode := 0x000500 }

/-- A block just after START. -/
def sweeping : Block := { loaded .sweeping with sub := .started }

/-- A block one sample before the end of point 0, as in V-P's row "advance". -/
def pointAlmostDone : Block := { sweeping with rc := 1, sumRe := 10, sumIm := -2, sub := .repeating }

/-- A block one sample before the end of the last point. -/
def sweepAlmostDone : Block := { pointAlmostDone with idx := 1 }

/-- A block in Faulted. -/
def faultedBlock : Block := { loaded .faulted with faultCode := .sweepTimeout }

/-- Answers that return these bytes. -/
def acks (bytes : List Byte) : List BusAnswer := bytes.map .ack

/-- The packed response of a command. -/
def packed (i : Instr) (s : State) : Option (BitVec 210) := (issue i s).response.map packResponse

/-- The trace of a command. -/
def traceOf (i : Instr) (s : State) : List BusEvent := (issue i s).trace

/-! ### Decoding: one word for every constructor -/

theorem test_decode_encode :
    decode 0x00000000000000000000000000FFFB400000753001 = .ok (.encode 30000 16776000) := by decide

theorem test_decode_configure :
    decode 0x000000040018C80000FFFB4000000000000003E802 = .ok (.configure 1000 0 16776000 0 100 0b11 4) := by decide

/-- Every operand bit of CONFIGURE set, every unused bit of D and E clear (30_encoding.md R76). -/
theorem test_decode_configure_full :
    decode 0x0000FFFF001FFFFFFFFFFFFFFFFFFFFFFFFFFFFF02 =
      .ok (.configure 0xFFFFFFFF 0xFFFFFFFF 0xFFFFFFFF 511 1023 0b11 65535) := by decide

/-- A = 0xFFFFFFFE uses only A[1:0] = 2 (V-R). -/
theorem test_decode_setRange : decode 0x00000000000000000000000000000000FFFFFFFE03 = .ok (.setRange 2) := by decide

theorem test_decode_setGain : decode 0x000000000000000000000000000000000000000104 = .ok (.setGain 1) := by decide

theorem test_decode_setClockSource :
    decode 0x000000000000000000000000000000000000000105 = .ok (.setClockSource 1) := by decide

theorem test_decode_standby : decode 0x000000000000000000000000000000000000000010 = .ok .standby := by decide

theorem test_decode_powerDown : decode 0x000000000000000000000000000000000000000011 = .ok .powerDown := by decide

theorem test_decode_init : decode 0x000000000000000000000000000000000000000012 = .ok .init := by decide

theorem test_decode_start : decode 0x000000000000000000000000000000000000000013 = .ok .start := by decide

theorem test_decode_poll : decode 0x000000000000000000000000000000000000000020 = .ok .poll := by decide

/-- Unused words are ignored (V-E, further checks). -/
theorem test_decode_ignores_unused_words :
    decode 0x000000FF000000FF000000FF00FFFB40000003E801 = .ok (.encode 1000 16776000) := by decide

/-- The reserved opcodes at the ends of each of their ranges, and their neighbours (30_encoding.md R78). -/
theorem test_reserved_opcode_ranges :
    (([0x00, 0x06, 0x0F, 0x14, 0x1F, 0x21, 0xFF] : List (BitVec 8)).all reservedOpcode = true) ∧
    (([0x01, 0x02, 0x03, 0x04, 0x05, 0x10, 0x11, 0x12, 0x13, 0x20] : List (BitVec 8)).any reservedOpcode = false) ∧
    decode 0x0000000000000000000000000000000000000000FF = .error (.reservedOpcode 0xFF) := by decide

/-- The encoder writes the frames of P2 step 2 and of V-R. -/
theorem test_encode_frames :
    encode (.configure 30000 10 16776000 3 15 0b01 2) = 0x0000000200081E0300FFFB400000000A0000753002 ∧
    encode (.setRange 3) = 0x000000000000000000000000000000000000000303 := by decide

theorem test_decodeTableWord :
    decodeTableWord 8 0x13 = some .start ∧ decodeTableWord 8 0x00 = none ∧ decodeTableWord 40 0x303 = some (.setRange 3) := by
  decide

/-! ### Well-formedness: one ill-formed term for each check -/

theorem test_wellFormed_refuses_reserved_multiplier : wellFormed (.configure 30000 10 16776000 1 15 0b10 2) = false := by
  decide

theorem test_wellFormed_refuses_zero_repeats : wellFormed (.configure 30000 10 16776000 1 15 0b11 0) = false := by decide

theorem test_wellFormed_accepts : wellFormed (.configure 30000 10 16776000 1 15 0b11 2) = true := by decide

/-! ### The step from reset -/

/-- The next step from reset runs the frame that withFetchWord placed; POLL in Idle answers IllegalCommand 0x020 (V-X). -/
theorem test_withFetchWord_runs :
    (match step (State.reset.withFetchWord 8 0x20) with
      | .next t => t.response
      | _ => none) = some { status := .illegalCommand, ctl := .idle, info := 0x020 } := by decide

/-- A reserved opcode in Idle answers IllegalCommand with the state and the opcode (V-L). -/
theorem test_reserved_answers :
    (match step (State.reset.withFetchWord 8 0xFF) with
      | .next t => t.response
      | _ => none) = some { status := .illegalCommand, ctl := .idle, info := 0x0FF } := by decide

/-! ### Encoder and commands, against the vectors -/

/-- Rows of V-E: the exact rounding, the last accepted frequency, the first rejected, the two clocks around the ceiling, the
nearest non-tie and the clock 0. -/
theorem test_encodeFrequency_vectors :
    encodeFrequency 30020 16776000 = some 0x3AA317 ∧ encodeFrequency 131062 16776000 = some 0xFFFFC0 ∧
    encodeFrequency 131063 16776000 = none ∧ encodeFrequency 1 128 = none ∧ encodeFrequency 1 129 = some 0xFE03F8 ∧
    encodeFrequency 1 0xFFFFFFFF = some 1 ∧ encodeFrequency 5 0 = none := by decide

/-- The packed response of `ENCODE 1000, c` in Standby (V-E, further checks). -/
theorem test_encode_packed_response :
    packed (.encode 1000 16776000) (bench (loaded .standby) []) =
      some 0x0000000000000000000000000000000000000000001F409000008 := by decide

/-- S1: the overflow of the source's example. -/
theorem test_encode_overflow : packed (.encode 16776000 16776000) (bench Block.reset []) = some 2 := by decide

/-- V-C, row 4: the ten bytes. -/
theorem test_configure_bytes :
    traceOf (.configure 1000 0 16776000 0 100 0b11 4) (bench Block.reset (List.replicate 10 (.ack 0))) =
      writeEvents [(0x82, 0x01), (0x83, 0xF4), (0x84, 0x09), (0x85, 0x00), (0x86, 0x00), (0x87, 0x00), (0x88, 0x00),
        (0x89, 0x00), (0x8A, 0x0C), (0x8B, 0x64)] := by decide

/-- V-C, failures: the 4th write fails. -/
theorem test_configure_fourth_write_fails :
    (issue (.configure 30000 10 16776000 1 15 0 2) (bench (loaded .standby) (acks [0, 0, 0] ++ [.ioError]))).blk =
      { loaded .faulted with configured := false, faultCode := .bus, faultInfo := 0x0185 } := by decide

/-- V-R, row 0xB1. -/
theorem test_setRange_byte :
    (issue (.setRange 2) (bench (loaded .standby) (acks [0xB1, 0]))).blk.cr1Shadow = some 0xB5 := by decide

/-- V-R, row 0xB1. -/
theorem test_setGain_byte :
    (issue (.setGain 0) (bench (loaded .standby) (acks [0xB1, 0]))).blk.cr1Shadow = some 0xB0 := by decide

/-- V-R, CR2 row 0x10. -/
theorem test_setClockSource_byte :
    (issue (.setClockSource 1) (bench (loaded .standby) (acks [0x10, 0]))).blk.cr2Shadow = some 0x18 := by decide

/-- STANDBY from Idle with CR1 = 0xA1 writes 0xB1 (V-M). -/
theorem test_standby :
    issue .standby (bench Block.reset (acks [0xA1, 0])) =
      { bench { Block.reset with ctl := .standby, cr1Shadow := some 0xB1 } [] with
        draws := 2, trace := [.read 0x80 (some 0xA1), .write 0x80 0xB1 true]
        response := some { status := .ok, ctl := .standby } } := by decide

/-- STANDBY whose write fails: information 0x0180, the shadow unknown (V-M, failures). -/
theorem test_standby_write_fails :
    (issue .standby (bench { Block.reset with cr1Shadow := some 0xB1 } [.ack 0xA1, .ioError])).blk =
      { Block.reset with ctl := .faulted, faultCode := .bus, faultInfo := 0x0180 } := by decide

/-- POWER_DOWN from Complete with CR1 = 0x31 writes 0xA1, giving Idle (V-M). -/
theorem test_powerDown :
    (issue .powerDown (bench { loaded .complete with idx := 1 } (acks [0x31, 0]))).blk =
      { loaded .idle with cr1Shadow := some 0xA1 } := by decide

/-- INIT from Standby with CR1 = 0xB1 writes 0x11 (V-M). -/
theorem test_init :
    (issue .init (bench (loaded .standby) (acks [0xB1, 0]))).blk =
      { loaded .initialized with cr1Shadow := some 0x11 } := by decide

/-- START from Initialized with CR1 = 0x5A: 0x22, not the rejected reading 0x02 (V-M). -/
theorem test_start :
    (issue .start (bench (loaded .initialized) (acks [0x5A, 0]))).blk =
      { sweeping with cr1Shadow := some 0x22 } := by decide

/-- V-P, row "repeat". -/
theorem test_poll_repeat :
    issue .poll (bench sweeping (acks [2, 0, 10, 0xFF, 0xFE, 0x21, 0])) =
      { bench { sweeping with rc := 1, sumRe := 10, sumIm := -2, sub := .repeating, cr1Shadow := some 0x41 } [] with
        draws := 7
        trace := [.read 0x8F (some 2), .read 0x94 (some 0), .read 0x95 (some 10), .read 0x96 (some 0xFF),
          .read 0x97 (some 0xFE), .read 0x80 (some 0x21), .write 0x80 0x41 true]
        response := some { status := .ok, ctl := .sweeping, sampleValid := true, re := 10, im := -2 } } := by decide

/-- P2, step 7: the packed response of a point. -/
theorem test_poll_advance_packed :
    packed .poll (bench pointAlmostDone (acks [3, 0, 0x0C, 0, 0, 0x41, 0])) =
      some 0x0000BFFFFFFF800000058000000EA60000000000C0000000000D8 := by decide

/-- The four assembler forms of an operand, and an operand outside its field (30_encoding.md R90). -/
theorem test_assembler :
    assembleLine "CONFIGURE 30000, 10, 16776000, 1, 0xF, X2, 2 ; a comment".toList =
      .ok (some (.configure 30000 10 16776000 1 15 0b01 2)) ∧
    assembleLine "SET_CLOCK_SOURCE EXTERNAL".toList = .ok (some (.setClockSource 1)) ∧
    (match assembleLine "SET_RANGE 4".toList with
      | .ok _ => false
      | .error _ => true) = true := by decide

/-! ### Witnesses: states and operands that meet the hypotheses of the statements -/

/-- Every `exec i s = .next t` among the hypotheses is met by the next state that there is. -/
theorem exec_issue (i : Instr) (s : State) : exec i s = .next (issue i s) := by cases i <;> rfl

/-- Every `step s = .next t` among the hypotheses is met by the next state that there is. -/
theorem step_stepped (s : State) : step s = .next (stepped s) := by
  have h : ∃ t, step s = .next t := by
    rcases step_cases s with ⟨_, h⟩ | ⟨_, _, h⟩ | ⟨_, _, i, _, _, h⟩ | ⟨_, _, _, _, _, h⟩
    · exact ⟨_, h⟩
    · exact ⟨_, h⟩
    · exact ⟨_, h.trans (exec_issue i _)⟩
    · exact ⟨_, h⟩
  obtain ⟨t, h⟩ := h
  rw [h, stepped, h]

theorem writesAll_of_acks {s : State} {ws : List (Addr × Byte)} {later : List BusAnswer}
    (h : s.answers = List.replicate ws.length (.ack 0) ++ later) : writesAll s ws := by
  intro j x hx
  have hj : j < ws.length := (List.getElem?_eq_some_iff.mp hx).1
  simp [writes, answerAt, h, List.getElem?_append_left, hj]

theorem readsAll_of_acks {s : State} {xs : List (Addr × Byte)} {later : List BusAnswer}
    (h : s.answers = acks (xs.map Prod.snd) ++ later) : readsAll s xs := by
  intro j x hx
  have hj : j < xs.length := (List.getElem?_eq_some_iff.mp hx).1
  rw [reads, answerAt, h, List.getElem?_append_left (by simpa [acks] using hj)]
  simp [acks, hx]

/-- EncodeOfDecodeKeepsTheUsedBits, DecodeOfEncode: a frame that decodes though bits it does not use are set. -/
theorem test_witness_decoded_frame :
    decode 0xFFFFFFFFFFFFFFFFFFFFFFFFFFFFFFFFFFFFFFFF05 = .ok (.setClockSource 1) ∧
    decode 0xFFFFFFFFFFFFFFFFFFFFFFFFFFFFFFFFFFFFFFFF02 =
      .ok (.configure 0xFFFFFFFF 0xFFFFFFFF 0xFFFFFFFF 511 1023 0b11 65535) := by decide

/-- UnusedFrameBitsChangeNothing: two frames of SET_GAIN that differ in every unused bit alone. -/
theorem test_witness_unused_bits :
    ((0x104 : Frame) ≠ 0xFFFFFFFFFFFFFFFFFFFFFFFFFFFFFFFFFFFFFFFF04) ∧
    ∀ k < 168, frameBitUsed ((0x104 : Frame).extractLsb' 0 8) k = true →
      (0x104 : Frame).getLsbD k = (0xFFFFFFFFFFFFFFFFFFFFFFFFFFFFFFFFFFFFFFFF04 : Frame).getLsbD k := by decide

/-- A state whose command port holds `f`. -/
def fed (s : State) (f : Frame) : State := putFrame s f

/-- ReservedOpcodesAreRefused, EveryFrameIsAnswered: reserved frames at the ends of their ranges. -/
theorem test_witness_reserved :
    (fed (bench sweeping []) 0x00).inputs = .command 0x00 :: [] ∧
    reservedOpcode ((0x00 : Frame).extractLsb' 0 8) = true ∧ reservedOpcode ((0xFF : Frame).extractLsb' 0 8) = true ∧
    reservedOpcode ((0x06 : Frame).extractLsb' 0 8) = true ∧ reservedOpcode ((0x1F : Frame).extractLsb' 0 8) = true := by
  decide

/-- StepRunsTheDecodedCommand, EveryFrameIsAnswered. -/
theorem test_witness_step :
    (fed (bench sweeping []) 0x20).inputs = .command 0x20 :: [] ∧ decode 0x20 = .ok .poll := by decide

/-- WithoutInputTheBlockWaits, and the reset's hypotheses of ResetSetsEveryField and OnlyStandbyAndResetLeaveFaulted. -/
theorem test_witness_inputs :
    (bench sweeping []).inputs = [] ∧
    ({ bench faultedBlock [] with inputs := [.reset] } : State).inputs = .reset :: [] ∧ faultedBlock.ctl = .faulted ∧
    (stepped { bench faultedBlock [] with inputs := [.reset] }).blk.ctl ≠ .faulted ∧
    (stepped (fed (bench faultedBlock (acks [0x41, 0])) 0x10)).blk.ctl ≠ .faulted := by decide

/-- StatePortTellsBlocksApart: two different states that show the same port. -/
theorem test_witness_statePort :
    statePort (bench sweeping []) = statePort (bench sweeping [.ioError]) ∧
    bench sweeping [] ≠ bench sweeping [.ioError] := ⟨rfl, by decide⟩

/-- TransactionsUseUpAnswersInOrder, ShadowsFollowTheWrites, OnlyConfigureWritesTheProgram: a POLL of seven transactions. -/
theorem test_witness_exec :
    exec .poll (bench sweeping (acks [2, 0, 10, 0xFF, 0xFE, 0x21, 0])) =
      .next (issue .poll (bench sweeping (acks [2, 0, 10, 0xFF, 0xFE, 0x21, 0]))) ∧
    (traceOf .poll (bench sweeping (acks [2, 0, 10, 0xFF, 0xFE, 0x21, 0]))).length = 7 := ⟨exec_issue .., by decide⟩

/-- EncodeGivesTheStrictlyNearestCode, EncodeRejectsExactlyBeyondTheCeiling, DecodedCodeIsWithinHalfAStep,
EncodeIsMonotone: accepted pairs, the last one that rounds to the ceiling, and a clock that is not 0. -/
theorem test_witness_encoder :
    encodeFrequency 30000 16776000 = some 0x3A9916 ∧ (30000 : BitVec 32).toNat ≤ (131062 : BitVec 32).toNat ∧
    encodeFrequency 131062 16776000 = some 0xFFFFC0 ∧ (16776000 : BitVec 32) ≠ 0 ∧
    encodeFrequency 16777215 2147483648 = some 0xFFFFFF ∧
    0x1FFFFFE * (2147483648 : BitVec 32).toNat ≤ (16777215 : BitVec 32).toNat * 2 ^ 32 ∧
    (16777215 : BitVec 32).toNat * 2 ^ 32 < 0x1FFFFFF * (2147483648 : BitVec 32).toNat := by decide

/-- ConfigureLoadsTheProgram, in Idle and in Standby. -/
theorem test_witness_configure :
    Block.reset.ctl = .idle ∧ (loaded .standby).ctl = .standby ∧ encodeFrequency 30000 16776000 = some 0x3A9916 ∧
    encodeFrequency 10 16776000 = some 0x000500 ∧ (0 : BitVec 2) ≠ 0b10 ∧ (2 : BitVec 16) ≠ 0 ∧
    writesAll (bench Block.reset (List.replicate 10 (.ack 0))) (sweepProgramBytes 0x3A9916 0x000500 1 15 0) ∧
    writesAll (bench (loaded .standby) (List.replicate 10 (.ack 0))) (sweepProgramBytes 0x3A9916 0x000500 1 15 0) :=
  ⟨rfl, rfl, by decide, by decide, by decide, by decide, writesAll_of_acks (later := []) (by decide),
    writesAll_of_acks (later := []) (by decide)⟩

/-- ConfigureReportsTheFirstFailedCheck: a pair for each of the four checks, the ones before it passed. -/
theorem test_witness_configure_checks :
    encodeFrequency 131063 16776000 = none ∧
    (encodeFrequency 30000 16776000 ≠ none ∧ encodeFrequency 131063 16776000 = none) ∧
    (encodeFrequency 10 16776000 ≠ none ∧ (0b10 : BitVec 2) = 0b10) ∧ ((0b11 : BitVec 2) ≠ 0b10 ∧ (0 : BitVec 16) = 0) := by
  decide

/-- ConfigureStopsAtTheFailedWrite: the first write fails, and the last one. -/
theorem test_witness_configure_fails :
    (sweepProgramBytes 0x3A9916 0x000500 1 15 0 =
        [] ++ (0x82, 0x3A) :: (sweepProgramBytes 0x3A9916 0x000500 1 15 0).tail ∧
      writesAll (bench Block.reset [.ioError]) [] ∧ writeFails (bench Block.reset [.ioError]) 0 0x82 0x3A) ∧
    (sweepProgramBytes 0x3A9916 0x000500 1 15 0 =
        (sweepProgramBytes 0x3A9916 0x000500 1 15 0).take 9 ++ (0x8B, 0x0F) :: [] ∧
      writesAll (bench Block.reset (List.replicate 9 (.ack 0) ++ [.ioError]))
        ((sweepProgramBytes 0x3A9916 0x000500 1 15 0).take 9) ∧
      writeFails (bench Block.reset (List.replicate 9 (.ack 0) ++ [.ioError])) 9 0x8B 0x0F) :=
  ⟨⟨by decide, writesAll_of_acks (later := [.ioError]) (by decide), rfl⟩,
    by decide, writesAll_of_acks (later := [.ioError]) (by decide), rfl⟩

/-- The register commands and the mode commands: the read answers `v`, the write goes through, in every state the command
is legal in that its statement names. -/
theorem test_witness_register_commands :
    (∀ b : Block, reads (bench b (acks [0xB1, 0])) 0 0x80 0xB1 ∧ reads (bench b (acks [0xB1, 0])) 0 0x81 0xB1 ∧
      ∀ addr w, writes (bench b (acks [0xB1, 0])) 1 addr w) ∧
    (loaded .standby).ctl = .standby ∧ (loaded .standby).configured = true ∧ (loaded .initialized).ctl = .initialized ∧
    (loaded .complete).ctl ≠ .faulted := by
  refine ⟨fun b => ⟨rfl, rfl, fun addr w => ?_⟩, rfl, rfl, rfl, by decide⟩
  simp [writes, answerAt, bench, acks]

/-- FieldCommandsChangeOnlyTheirBits: each command's trace, at the operand's largest value. -/
theorem test_witness_field_commands :
    traceOf (.setRange 3) (bench Block.reset (acks [0x00, 0])) = [.read 0x80 (some 0x00), .write 0x80 0x06 true] ∧
    traceOf (.setGain 1) (bench Block.reset (acks [0x00, 0])) = [.read 0x80 (some 0x00), .write 0x80 0x01 true] ∧
    traceOf (.setClockSource 1) (bench Block.reset (acks [0x00, 0])) =
      [.read 0x81 (some 0x00), .write 0x81 0x08 true] := by decide

/-- ModeWritesKeepTheLowThreeBits, ControlRegisterWritesFollowTheirRead and the second clause of
RangeGainAndClockAreFixedAfterInit: START and POLL; and the first clause of the last: SET_RANGE in Sweeping. -/
theorem test_witness_mode_writes :
    traceOf .start (bench (loaded .initialized) (acks [0x5A, 0])) =
      [] ++ .read 0x80 (some 0x5A) :: .write 0x80 0x22 true :: [] ∧
    traceOf .poll (bench sweeping (acks [2, 0, 10, 0xFF, 0xFE, 0x21, 0])) =
      readEvents (samplePoll 2 0 10 0xFF 0xFE) ++ .read 0x80 (some 0x21) :: .write 0x80 0x41 true :: [] ∧
    (stepped (fed (bench sweeping (acks [2, 0, 10, 0xFF, 0xFE, 0x21, 0])) 0x20)).trace =
      (readEvents (samplePoll 2 0 10 0xFF 0xFE) ++ [.read 0x80 (some 0x21)]) ++ .write 0x80 0x41 true :: [] ∧
    sweeping.ctl ≠ .idle ∧ sweeping.ctl ≠ .standby ∧
    exec (.setRange 2) (bench sweeping []) = .next (issue (.setRange 2) (bench sweeping [])) := by
  refine ⟨by decide, by decide, by decide, by decide, by decide, exec_issue ..⟩

/-- DecodedViewShowsTheLastCommand: a command of each kind that answers OK after a transaction. -/
theorem test_witness_decoded_view :
    (traceOf (.setRange 3) (bench Block.reset (acks [0, 0])) ≠ [] ∧
      ∃ r, (issue (.setRange 3) (bench Block.reset (acks [0, 0]))).response = some r ∧ r.status = .ok) ∧
    (traceOf .start (bench (loaded .initialized) (acks [0, 0])) ≠ [] ∧
      ∃ r, (issue .start (bench (loaded .initialized) (acks [0, 0]))).response = some r ∧ r.status = .ok) ∧
    (traceOf .poll (bench sweeping (acks [0])) ≠ [] ∧
      ∃ r, (issue .poll (bench sweeping (acks [0]))).response = some r ∧ r.status = .ok) ∧
    (traceOf (.configure 1000 0 16776000 0 0 0 1) (bench Block.reset (acks (List.replicate 10 0))) ≠ [] ∧
      ∃ r, (issue (.configure 1000 0 16776000 0 0 0 1) (bench Block.reset (acks (List.replicate 10 0)))).response = some r ∧
        r.status = .ok) :=
  ⟨⟨by decide, _, rfl, rfl⟩, ⟨by decide, _, rfl, rfl⟩, ⟨by decide, _, rfl, rfl⟩, ⟨by decide, _, rfl, rfl⟩⟩

/-- FailedRegisterReadFaults and FailedRegisterWriteFaults: SET_CLOCK_SOURCE in Idle, STANDBY in Faulted. -/
theorem test_witness_failed_register :
    (∃ change, registerChange (.setClockSource 1) = some (0x81, change) ∧ change 0x10 = 0x18 ∧
      writeFails (bench Block.reset [.ack 0x10, .ioError]) 1 0x81 (change 0x10)) ∧
    (∃ change, registerChange .standby = some (0x80, change) ∧ change 0xA1 = 0xB1) ∧
    legal (.setClockSource 1) Block.reset.ctl Block.reset.configured = true ∧
    legal .standby faultedBlock.ctl faultedBlock.configured = true ∧
    reads (bench Block.reset [.ack 0x10, .ioError]) 0 0x81 0x10 ∧
    readFails (bench Block.reset [.ioError]) 0 0x81 ∧ readFails (bench faultedBlock [.ioError]) 0 0x80 ∧
    reads (bench faultedBlock [.ack 0xA1, .ioError]) 0 0x80 0xA1 ∧
    writeFails (bench faultedBlock [.ack 0xA1, .ioError]) 1 0x80 0xB1 :=
  ⟨⟨_, rfl, by decide, rfl⟩, ⟨_, rfl, by decide⟩, rfl, rfl, rfl, rfl, rfl, rfl, rfl⟩

/-- LegalityTableDecidesIllegalCommand: INIT in Standby on either side of `configured`. -/
theorem test_witness_legality :
    legal .init .standby false = false ∧ legal .init .standby true = true ∧
    ∃ r, (issue .init (bench (loaded .standby) (acks [0xB1, 0]))).response = some r :=
  ⟨rfl, rfl, _, rfl⟩

/-- StandbyTwiceChangesNothingMore: the second STANDBY reads the first one's byte, and another one. -/
theorem test_witness_standby_twice :
    (traceOf .standby (bench Block.reset (acks [0xA1, 0, 0xB1, 0])) = [.read 0x80 (some 0xA1), .write 0x80 0xB1 true] ∧
      traceOf .standby (issue .standby (bench Block.reset (acks [0xA1, 0, 0xB1, 0]))) =
        [.read 0x80 (some 0xB1), .write 0x80 0xB1 true]) ∧
    traceOf .standby (issue .standby (bench Block.reset (acks [0xA1, 0, 0x06, 0]))) =
      [.read 0x80 (some 0x06), .write 0x80 0xB6 true] := by decide

/-- ControllerChangesByTheTransitionTable: a change of state by each of its six clauses. -/
theorem test_witness_transitions :
    (issue .standby (bench Block.reset (acks [0, 0]))).blk.ctl ≠ Block.reset.ctl ∧
    (issue .powerDown (bench sweeping (acks [0, 0]))).blk.ctl ≠ sweeping.ctl ∧
    (issue .init (bench (loaded .standby) (acks [0, 0]))).blk.ctl ≠ (loaded .standby).ctl ∧
    (issue .start (bench (loaded .initialized) (acks [0, 0]))).blk.ctl ≠ (loaded .initialized).ctl ∧
    (issue .poll (bench sweepAlmostDone (acks [6, 0, 0, 0, 0]))).blk.ctl ≠ sweepAlmostDone.ctl ∧
    (issue .poll (bench sweeping [.ioError])).blk.ctl ≠ sweeping.ctl := by decide

/-- EmptyPollCountsOne and EmptyPollAtTheBudgetTimesOut: the last poll below the budget of 4, and the one that reaches it. -/
theorem test_witness_empty_poll :
    sweeping.ctl = .sweeping ∧ (0xF9 : Byte).getLsbD 1 = false ∧
    (({ sweeping with failPolls := 2 } : Block).failPolls.toNat + 1 < (bench sweeping []).pollBudget.toNat) ∧
    ((bench sweeping []).pollBudget.toNat ≤ ({ sweeping with failPolls := 3 } : Block).failPolls.toNat + 1) ∧
    reads (bench { sweeping with failPolls := 2 } (acks [0xF9])) 0 0x8F 0xF9 ∧
    reads (bench { sweeping with failPolls := 3 } (acks [0xF9])) 0 0x8F 0xF9 :=
  ⟨rfl, by decide, by decide, by decide, rfl, rfl⟩

/-- SampleBelowTheTargetRepeats, CompletedPointAdvances, LastPointCompletesTheSweep, DisagreeingCompletionFaults. -/
theorem test_witness_sample_polls :
    (readsAll (bench sweeping (acks [2, 0, 10, 0xFF, 0xFE, 0x21, 0])) (samplePoll 2 0 10 0xFF 0xFE) ∧
      reads (bench sweeping (acks [2, 0, 10, 0xFF, 0xFE, 0x21, 0])) 5 0x80 0x21 ∧
      writes (bench sweeping (acks [2, 0, 10, 0xFF, 0xFE, 0x21, 0])) 6 0x80 ((0x21 &&& 0x07) ||| 0x40) ∧
      (2 : Byte).getLsbD 1 = true ∧ sweeping.rc.toNat + 1 < sweeping.pRep.toNat) ∧
    (readsAll (bench pointAlmostDone (acks [2, 0, 12, 0, 0, 0x41, 0])) (samplePoll 2 0 12 0 0) ∧
      reads (bench pointAlmostDone (acks [2, 0, 12, 0, 0, 0x41, 0])) 5 0x80 0x41 ∧
      writes (bench pointAlmostDone (acks [2, 0, 12, 0, 0, 0x41, 0])) 6 0x80 ((0x41 &&& 0x07) ||| 0x30) ∧
      pointAlmostDone.pRep.toNat ≤ pointAlmostDone.rc.toNat + 1 ∧ (2 : Byte).getLsbD 2 = false ∧
      pointAlmostDone.idx ≠ pointAlmostDone.pNinc) ∧
    (readsAll (bench sweepAlmostDone (acks [6, 0, 1, 0, 1])) (samplePoll 6 0 1 0 1) ∧
      sweepAlmostDone.pRep.toNat ≤ sweepAlmostDone.rc.toNat + 1 ∧ (6 : Byte).getLsbD 1 = true ∧
      (6 : Byte).getLsbD 2 = true ∧ sweepAlmostDone.idx = sweepAlmostDone.pNinc) ∧
    (readsAll (bench pointAlmostDone (acks [6, 0, 1, 0, 1])) (samplePoll 6 0 1 0 1) ∧ (6 : Byte).getLsbD 2 = true ∧
      pointAlmostDone.idx ≠ pointAlmostDone.pNinc) ∧
    (readsAll (bench sweepAlmostDone (acks [2, 0, 1, 0, 1])) (samplePoll 2 0 1 0 1) ∧ (2 : Byte).getLsbD 2 = false ∧
      sweepAlmostDone.idx = sweepAlmostDone.pNinc) :=
  ⟨⟨readsAll_of_acks (later := acks [0x21, 0]) rfl, rfl, by simp [writes, answerAt, bench, acks], by decide, by decide⟩,
    ⟨readsAll_of_acks (later := acks [0x41, 0]) rfl, rfl, by simp [writes, answerAt, bench, acks], by decide, by decide,
      by decide⟩,
    ⟨readsAll_of_acks (later := []) rfl, by decide, by decide, by decide, by decide⟩,
    ⟨readsAll_of_acks (later := []) rfl, by decide, by decide⟩,
    ⟨readsAll_of_acks (later := []) rfl, by decide, by decide⟩⟩

/-- FailedPollReadFaults: the status read fails, and the last data read. -/
theorem test_witness_failed_poll_read :
    (([] : List (Addr × Byte)).map Prod.fst ++ (0x8F : Addr) :: [0x94, 0x95, 0x96, 0x97] = [0x8F, 0x94, 0x95, 0x96, 0x97] ∧
      readsAll (bench sweeping [.ioError]) [] ∧ readFails (bench sweeping [.ioError]) 0 0x8F) ∧
    ([((0x8F : Addr), (2 : Byte)), (0x94, 0), (0x95, 1), (0x96, 0)].map Prod.fst ++ (0x97 : Addr) :: [] =
        [0x8F, 0x94, 0x95, 0x96, 0x97] ∧
      readsAll (bench sweeping (acks [2, 0, 1, 0] ++ [.ioError])) [(0x8F, 2), (0x94, 0), (0x95, 1), (0x96, 0)] ∧
      (∀ st, [((0x8F : Addr), (2 : Byte)), (0x94, 0), (0x95, 1), (0x96, 0)].head? = some (0x8F, st) →
        st.getLsbD 1 = true) ∧
      readFails (bench sweeping (acks [2, 0, 1, 0] ++ [.ioError])) 4 0x97) :=
  ⟨⟨rfl, readsAll_nil _, rfl⟩, rfl, readsAll_of_acks (later := [.ioError]) rfl, by decide, rfl⟩

/-- FailedPollModeWriteFaults: either transaction fails, with either pattern. -/
theorem test_witness_failed_mode_write :
    readsAll (bench sweeping (acks [2, 0, 1, 0, 1] ++ [.ioError])) (samplePoll 2 0 1 0 1) ∧
    readFails (bench sweeping (acks [2, 0, 1, 0, 1] ++ [.ioError])) 5 0x80 ∧
    sweeping.rc.toNat + 1 < sweeping.pRep.toNat ∧
    readsAll (bench pointAlmostDone (acks [2, 0, 1, 0, 1, 0x21] ++ [.ioError])) (samplePoll 2 0 1 0 1) ∧
    reads (bench pointAlmostDone (acks [2, 0, 1, 0, 1, 0x21] ++ [.ioError])) 5 0x80 0x21 ∧
    writeFails (bench pointAlmostDone (acks [2, 0, 1, 0, 1, 0x21] ++ [.ioError])) 6 0x80 ((0x21 &&& 0x07) ||| 0x30) ∧
    pointAlmostDone.pRep.toNat ≤ pointAlmostDone.rc.toNat + 1 ∧ (2 : Byte).getLsbD 2 = false ∧
    pointAlmostDone.idx ≠ pointAlmostDone.pNinc :=
  ⟨readsAll_of_acks (later := [.ioError]) rfl, rfl, by decide,
    readsAll_of_acks (later := [.ack 0x21, .ioError]) rfl, rfl, rfl, by decide, by decide, by decide⟩

/-- OtherStatusBitsAreIgnored: two status bytes that differ in every ignored bit. -/
theorem test_witness_other_status_bits :
    (bench sweeping (acks [0x02, 0, 10, 0xFF, 0xFE, 0x21, 0])).answers = .ack 0x02 :: acks [0, 10, 0xFF, 0xFE, 0x21, 0] ∧
    (0x02 : Byte).getLsbD 1 = (0xFB : Byte).getLsbD 1 ∧ (0x02 : Byte).getLsbD 2 = (0xFB : Byte).getLsbD 2 ∧
    (issue .poll (bench sweeping (acks [0x02, 0, 10, 0xFF, 0xFE, 0x21, 0]))).blk.faultCode ≠ .unexpectedStatus := by decide

theorem test_inv_sweeping_block : Inv (bench sweeping []) := by constructor <;> decide

theorem test_inv_pointAlmostDone_block : Inv (bench pointAlmostDone []) := by constructor <;> decide

theorem test_inv_standby_block : Inv (bench (loaded .standby) []) := by constructor <;> decide

/-- The invariant holds in a sweep, whatever the device answers and the host sends. -/
theorem test_inv_sweeping (answers : List BusAnswer) (inputs : List HostInput) :
    Inv { bench sweeping answers with inputs := inputs } := inv_of_blk (s := bench sweeping []) rfl rfl test_inv_sweeping_block

theorem test_inv_pointAlmostDone (answers : List BusAnswer) : Inv (bench pointAlmostDone answers) :=
  inv_of_blk (s := bench pointAlmostDone []) rfl rfl test_inv_pointAlmostDone_block

theorem test_inv_standby (answers : List BusAnswer) : Inv (bench (loaded .standby) answers) :=
  inv_of_blk (s := bench (loaded .standby) []) rfl rfl test_inv_standby_block

/-- AccumulationIsExact: a sample without a point and one with, the samples negative or 0. -/
theorem test_witness_accumulation :
    (Inv (bench sweeping (acks [2, 0x80, 0, 0x80, 0, 0x21, 0])) ∧
      ∃ r, (issue .poll (bench sweeping (acks [2, 0x80, 0, 0x80, 0, 0x21, 0]))).response = some r ∧
        r.sampleValid = true ∧ r.pointValid = false) ∧
    (Inv (bench pointAlmostDone (acks [2, 0, 12, 0, 0, 0x41, 0])) ∧
      ∃ r, (issue .poll (bench pointAlmostDone (acks [2, 0, 12, 0, 0, 0x41, 0]))).response = some r ∧
        r.sampleValid = true ∧ r.pointValid = true) :=
  ⟨⟨test_inv_sweeping _ [], _, rfl, rfl, rfl⟩, ⟨test_inv_pointAlmostDone _, _, rfl, rfl, rfl⟩⟩

/-- StepKeepsTheReachableInvariant, OnlyListedRegistersAreAccessed: a step of a state that meets the invariant. -/
theorem test_witness_invariant_step :
    Inv { bench sweeping (acks [0]) with inputs := [.command 0x20] } ∧
    step { bench sweeping (acks [0]) with inputs := [.command 0x20] } =
      .next (stepped { bench sweeping (acks [0]) with inputs := [.command 0x20] }) ∧
    (stepped { bench sweeping (acks [0]) with inputs := [.command 0x20] }).trace ≠ [] :=
  ⟨test_inv_sweeping _ _, step_stepped _, by decide⟩

/-- ReachableStatesMeetTheInvariant: the least budget and the largest. -/
theorem test_witness_budget : (1 : BitVec 32) ≠ 0 ∧ (0xFFFFFFFF : BitVec 32) ≠ 0 := by decide

/-- NothingFollowsAFailedTransaction: the third transaction of a POLL fails. -/
theorem test_witness_failed_transaction :
    (stepped (fed (bench sweeping (acks [2, 0] ++ [.ioError])) 0x20)).trace =
      [.read 0x8F (some 2), .read 0x94 (some 0)] ++ .read 0x95 none :: [] ∧
    eventFailed (.read 0x95 none) = true := by decide

/-- RejectionsChangeNothing and FaultsAreRecordedAndPrecise: a command that answers each of the five errors. -/
theorem test_witness_errors :
    ((issue .poll (bench Block.reset [])).response.map (·.status) = some .illegalCommand) ∧
    ((issue (.encode 5 0) (bench Block.reset [])).response.map (·.status) = some .frequencyOutOfRange) ∧
    ((issue (.configure 30000 10 16776000 1 15 0b10 2) (bench Block.reset [])).response.map (·.status) =
      some .configInvalid) ∧
    ((issue .poll (bench sweeping [.ioError])).response.map (·.status) = some .ioError) ∧
    ((issue .poll (bench { sweeping with failPolls := 3 } (acks [0]))).response.map (·.status) = some .sweepTimeout) := by
  decide

/-- The shortest sweep there is, one point of one sample, just begun, with one POLL to come that completes it. -/
def shortSweep : State :=
  { bench { loaded .sweeping with sub := .started, pNinc := 0, pRep := 1 } (acks [6, 0, 1, 0, 1]) with
    inputs := [.command 0x20] }

/-- CompletedSweepCardinality: a sweep that ends in Complete. -/
theorem test_witness_completed_sweep :
    Inv shortSweep ∧ sweepBegun shortSweep ∧ (∀ j < 1, (runFor j shortSweep).blk.ctl = .sweeping) ∧
    (runFor 1 shortSweep).blk.ctl = .complete := by
  refine ⟨by constructor <;> decide, ⟨rfl, rfl, rfl, rfl, rfl⟩, by decide, by decide⟩

/-- PollingLeavesSweepingInTime: a sweep with as many POLLs to come as the bound says, and one with none; and its clause on
polls without a sample: at a budget of 4 the third leaves the block in Sweeping. -/
theorem test_witness_polling :
    Inv { bench sweeping [] with inputs := List.replicate (pollBound (bench sweeping [])) (.command (encode .poll)) } ∧
    sweeping.ctl = .sweeping ∧ Inv { bench sweeping [] with inputs := [] } ∧
    (∀ j ≤ 3, (runFor j { bench sweeping (acks [0, 0, 0]) with
      inputs := List.replicate 16 (.command (encode .poll)) }).blk.ctl = .sweeping) ∧
    samplesOf (visited 3 { bench sweeping (acks [0, 0, 0]) with
      inputs := List.replicate 16 (.command (encode .poll)) }) = [] :=
  ⟨test_inv_sweeping _ _, rfl, test_inv_sweeping _ _, by decide, by decide⟩

/-- RunSweepEndsCompleteOrInError: a host with just the patience of the bound. -/
theorem test_witness_runSweep :
    Inv (bench (loaded .standby) []) ∧ pollBound (bench (loaded .standby) []) ≤ 16 := ⟨test_inv_standby _, by decide⟩

end Sys2Proof.Tests
end

section
/-! PROOFS of the scope family (00_scope.md): how a step relates the command port to the commands. -/

namespace Sys2Proof.Machine

/-- An input that waits is taken off the front of the port, and nothing else of the state moves. -/
theorem takeInput_of_inputs {s : State} {input : HostInput} {rest : List HostInput} (hin : s.inputs = input :: rest) :
    takeInput s = some (input, { s with inputs := rest }) := by
  simp only [takeInput, hin]

/-- Settles O7: taking the frame selects the command branch of `step`, and its decoding the branch that runs `exec`. -/
theorem stepRunsTheDecodedCommand : Obligations.StepRunsTheDecodedCommand := by
  intro s f rest i hin hdec
  have taken : takeInput s = some (.command f, { s with inputs := rest }) := takeInput_of_inputs hin
  simp only [step, taken, hdec]

end Sys2Proof.Machine
end

section
/-! PROOFS of the state family (10_state.md): the invariant of reachable states, first for the blocks a command can leave,
then for a command, a step and a run; the shadows and the program registers after a command; the state port. -/

namespace Sys2Proof.Machine

/-! ### Counting and summing without overflow -/

/-- A count with a larger number of its width beside it can go up by one. -/
theorem toNat_add_one_of_lt {w : Nat} {x y : BitVec w} (h : x.toNat < y.toNat) : (x + 1).toNat = x.toNat + 1 := by
  have room : x.toNat + 1 < 2 ^ w := Nat.lt_of_le_of_lt h y.isLt
  rw [BitVec.ofNat_eq_ofNat, BitVec.toNat_add, BitVec.toNat_ofNat, Nat.add_mod_mod, Nat.mod_eq_of_lt room]

/-- While the sum is that of at most 65534 samples, adding one more is exact (44_averager.md R180, R182). -/
theorem accumulate_toInt {sum : BitVec 32} (sample : BitVec 16) {n : Nat} (hn : n + 1 ≤ 65535)
    (hsum : -(32768 * (n : Int)) ≤ sum.toInt ∧ sum.toInt ≤ 32768 * (n : Int)) :
    (accumulate sum sample).toInt = sum.toInt + sample.toInt := by
  have low := BitVec.le_toInt sample
  have high := BitVec.toInt_lt (x := sample)
  rw [accumulate, sext32, BitVec.toInt_add, BitVec.toInt_signExtend_of_le (by decide)]
  exact Int.bmod_eq_of_le (by omega) (by omega)

/-- One sample more widens the range of a sum by one sample's (10_state.md R42 (d)). -/
theorem accumulate_inRange {sum : BitVec 32} (sample : BitVec 16) {n : Nat} (hn : n + 1 ≤ 65535)
    (hsum : -(32768 * (n : Int)) ≤ sum.toInt ∧ sum.toInt ≤ 32768 * (n : Int)) :
    -(32768 * ((n + 1 : Nat) : Int)) ≤ (accumulate sum sample).toInt ∧
      (accumulate sum sample).toInt ≤ 32768 * ((n + 1 : Nat) : Int) := by
  have low := BitVec.le_toInt sample
  have high := BitVec.toInt_lt (x := sample)
  rw [accumulate_toInt sample hn hsum]
  omega

/-! ### The fault record -/

/-- The information of a failed transaction fits in 9 bits (60_exceptions.md R201). -/
theorem busInfo_le (isWrite : Bool) (addr : Addr) : (busInfo isWrite addr).toNat ≤ 0x1FF := by
  have direction : ((BitVec.ofBool isWrite).setWidth 16 <<< 8).toNat < 2 ^ 9 := by cases isWrite <;> decide
  have address : (addr.setWidth 16).toNat < 2 ^ 9 := by
    rw [BitVec.toNat_setWidth_of_le (by decide)]
    exact Nat.lt_trans addr.isLt (by decide)
  rw [busInfo, BitVec.toNat_or]
  exact Nat.le_of_lt_succ (Nat.or_lt_two_pow direction address)

/-- The information of an unexpected status is the status above 0x0200 (60_exceptions.md R202). -/
theorem statusInfo_toNat (st : Byte) : (statusInfo st).toNat = 0x200 + st.toNat := by
  have status : st.toNat < 2 ^ 9 := Nat.lt_trans st.isLt (by decide)
  rw [statusInfo, BitVec.toNat_or, BitVec.toNat_setWidth_of_le (by decide)]
  exact (Nat.two_pow_add_eq_or_of_lt status 1).symm

/-- Every error that faults records a detail of its fault code's form (10_state.md R35). -/
theorem faultRecordLegal_faultEntry (isConfigure : Bool) (e : Raise) (b : Block) (he : raiseFaultCode e ≠ .none) :
    faultRecordLegal (faultEntry isConfigure (raiseFaultCode e) (raiseInfo e) b) := by
  cases e with
  | bus isWrite addr => simpa [faultRecordLegal, raiseFaultCode, raiseInfo] using busInfo_le isWrite addr
  | unexpectedStatus st =>
    have status := st.isLt
    simp only [faultRecordLegal, faultEntry_faultCode, faultEntry_faultInfo, raiseFaultCode, raiseInfo, statusInfo_toNat]
    simp
    omega
  | sweepTimeout => simp [faultRecordLegal, raiseFaultCode, raiseInfo]
  | frequencyOutOfRange _ => exact absurd rfl he
  | configInvalid _ => exact absurd rfl he
  | illegalCommand _ _ => exact absurd rfl he

/-! ### The invariant, for each way a command changes the block -/

/-- Outside Faulted no fault is on record (10_state.md R42 (f), R35). -/
theorem faultFree_of_inv {s : State} (h : Inv s) (hctl : s.blk.ctl ≠ .faulted) :
    s.blk.faultCode = .none ∧ s.blk.faultInfo = 0 := by
  have code : s.blk.faultCode = .none := by
    by_contra hcode
    exact hctl (h.recordsMatchState.2.mpr hcode)
  exact ⟨code, h.faultRecordLegal.1 code⟩

/-- The invariant says nothing of the shadows. -/
theorem inv_setShadow {s : State} (h : Inv s) (addr : Addr) (shadow : Option Byte) :
    Inv { s with blk := setShadow s.blk addr shadow } := by
  obtain ⟨budget, index, counts, sums, records, datapath, program, fault⟩ := h
  exact ⟨budget, by simpa [indexInRange, programNeeded] using index, by simpa [countsInRange] using counts,
    by simpa [sumsInRange] using sums, by simpa [recordsMatchState] using records,
    by simpa [datapathClear] using datapath, by simpa [programLegal] using program,
    by simpa [faultRecordLegal] using fault⟩

/-- Fault entry keeps the invariant (60_exceptions.md R207). -/
theorem inv_faultEntry {s : State} (h : Inv s) (isConfigure : Bool) (e : Raise) (he : raiseFaultCode e ≠ .none) :
    Inv { s with blk := faultEntry isConfigure (raiseFaultCode e) (raiseInfo e) s.blk } where
  budgetPositive := h.budgetPositive
  indexInRange := by simp [programNeeded]
  countsInRange := by simp
  sumsInRange := h.sumsInRange
  recordsMatchState := by simpa [recordsMatchState] using he
  datapathClear := by simp [datapathClear]
  programLegal := ⟨h.programLegal.1, fun hc => h.programLegal.2 (Bool.and_eq_true_iff.mp hc).1⟩
  faultRecordLegal := faultRecordLegal_faultEntry isConfigure e s.blk he

/-- The fault entry of a command that is not CONFIGURE keeps the invariant. -/
theorem inv_faulted {s : State} (h : Inv s) (e : Raise) (he : raiseFaultCode e ≠ .none) :
    Inv { s with blk := faulted (raiseFaultCode e) (raiseInfo e) s.blk } :=
  faultEntry_false .. ▸ inv_faultEntry h false e he

/-- Loading a legal program in Idle or Standby keeps the invariant (40_encoder_and_program.md R107). -/
theorem inv_loadProgram {s : State} (h : Inv s) {start inc clk : BitVec 32} (ninc : BitVec 9) (settle : BitVec 10)
    {mult : BitVec 2} {rep : BitVec 16} {startCode incCode : BitVec 24} (hctl : s.blk.ctl = .idle ∨ s.blk.ctl = .standby)
    (hstart : encodeFrequency start clk = some startCode) (hinc : encodeFrequency inc clk = some incCode)
    (hmult : mult ≠ 0b10) (hrep : rep ≠ 0) :
    Inv { s with blk := loadProgram start inc clk ninc settle mult rep startCode incCode s.blk } where
  budgetPositive := h.budgetPositive
  indexInRange := by rcases hctl with hctl | hctl <;> simp [programNeeded, hctl]
  countsInRange := by rcases hctl with hctl | hctl <;> simp [hctl]
  sumsInRange := h.sumsInRange
  recordsMatchState := h.recordsMatchState
  datapathClear := ⟨h.datapathClear.1, by rcases hctl with hctl | hctl <;> simp [hctl]⟩
  programLegal := ⟨hmult, fun _ => ⟨hrep, hstart, hinc⟩⟩
  faultRecordLegal := h.faultRecordLegal

/-- A clear datapath, a legal program and no fault on record make Idle, Standby and, with a program loaded, Initialized
states that meet the invariant (42_sweep_controller.md R142, R143, R144). -/
theorem inv_clearDatapath {s : State} (budget : s.pollBudget ≠ 0) {b : Block} (program : programLegal b)
    (hcode : b.faultCode = .none) (hinfo : b.faultInfo = 0) (ctl : Ctl)
    (hctl : ctl = .idle ∨ ctl = .standby ∨ ctl = .initialized ∧ b.configured = true) :
    Inv { s with blk := { clearDatapath b with ctl := ctl, sub := .none } } where
  budgetPositive := budget
  indexInRange := by rcases hctl with rfl | rfl | ⟨rfl, loaded⟩ <;> simp [programNeeded, *]
  countsInRange := by rcases hctl with rfl | rfl | ⟨rfl, _⟩ <;> simp
  sumsInRange := by simp
  recordsMatchState := by rcases hctl with rfl | rfl | ⟨rfl, _⟩ <;> simp [recordsMatchState, hcode]
  datapathClear := by rcases hctl with rfl | rfl | ⟨rfl, _⟩ <;> simp [datapathClear]
  programLegal := program
  faultRecordLegal := by simp [faultRecordLegal, hcode, hinfo]

/-- START keeps the invariant: INIT left the datapath clear, and the program's repeat target is not 0
(42_sweep_controller.md R145). -/
theorem inv_start {s : State} (h : Inv s) (hctl : s.blk.ctl = .initialized) :
    Inv { s with blk := { s.blk with ctl := .sweeping, sub := .started, failPolls := 0 } } := by
  obtain ⟨loaded, index⟩ := h.indexInRange (.inl hctl)
  obtain ⟨_, noSamples, _, _⟩ := h.datapathClear.1 (.inr (.inr hctl))
  obtain ⟨target, _, _⟩ := h.programLegal.2 loaded
  obtain ⟨noFault, _⟩ := faultFree_of_inv h (by simp [hctl])
  exact
    { budgetPositive := h.budgetPositive
      indexInRange := fun _ => ⟨loaded, index⟩
      countsInRange := fun _ => ⟨by simpa [noSamples] using BitVec.toNat_pos_of_ne_zero target,
        BitVec.toNat_pos_of_ne_zero h.budgetPositive⟩
      sumsInRange := h.sumsInRange
      recordsMatchState := by simp [recordsMatchState, noFault]
      datapathClear := by simp [datapathClear]
      programLegal := h.programLegal
      faultRecordLegal := h.faultRecordLegal }

/-- A control-register command that is legal and goes through keeps the invariant. -/
theorem inv_registerCommit {s : State} (h : Inv s) (i : Instr) (hl : legal i s.blk.ctl s.blk.configured = true) :
    Inv { s with blk := registerCommit i s.blk } := by
  cases i with
  | standby => exact inv_clearDatapath h.budgetPositive (b := clearFault s.blk) h.programLegal rfl rfl .standby (by simp)
  | powerDown =>
    obtain ⟨noFault, noDetail⟩ := faultFree_of_inv h (by intro hc; simp [legal, hc] at hl)
    exact inv_clearDatapath h.budgetPositive h.programLegal noFault noDetail .idle (by simp)
  | init =>
    have standby : s.blk.ctl = .standby ∧ s.blk.configured = true := by
      revert hl; cases s.blk.ctl <;> simp [legal]
    obtain ⟨noFault, noDetail⟩ := faultFree_of_inv h (by simp [standby])
    exact inv_clearDatapath h.budgetPositive h.programLegal noFault noDetail .initialized (by simp [standby])
  | start => exact inv_start h (by revert hl; cases s.blk.ctl <;> simp [legal])
  | encode _ _ => exact h
  | configure _ _ _ _ _ _ _ => exact h
  | setRange _ => exact h
  | setGain _ => exact h
  | setClockSource _ => exact h
  | poll => exact h

section Sweeping

variable {s : State}

/-- An empty poll below the budget keeps the invariant (43_measurement_poller.md R163). -/
theorem inv_pollCounted (h : Inv s) (hctl : s.blk.ctl = .sweeping)
    (hbudget : s.blk.failPolls.toNat + 1 < s.pollBudget.toNat) :
    Inv { s with blk := { s.blk with failPolls := s.blk.failPolls + 1 } } where
  budgetPositive := h.budgetPositive
  indexInRange := h.indexInRange
  countsInRange := fun _ =>
    ⟨(h.countsInRange hctl).1, by simpa only [toNat_add_one_of_lt (h.countsInRange hctl).2] using hbudget⟩
  sumsInRange := h.sumsInRange
  recordsMatchState := h.recordsMatchState
  datapathClear := h.datapathClear
  programLegal := h.programLegal
  faultRecordLegal := h.faultRecordLegal

/-- A sample that does not complete its point keeps the invariant: the sums stay those of `rc` samples
(43_measurement_poller.md R164, 44_averager.md R182). -/
theorem inv_pollRepeated (h : Inv s) (hctl : s.blk.ctl = .sweeping) (hrep : s.blk.rc.toNat + 1 < s.blk.pRep.toNat)
    (re im : BitVec 16) (shadow : Option Byte) :
    Inv { s with blk := { s.blk with
      sumRe := accumulate s.blk.sumRe re
      sumIm := accumulate s.blk.sumIm im
      rc := s.blk.rc + 1
      sub := .repeating
      failPolls := 0
      cr1Shadow := shadow } } := by
  have counted : (s.blk.rc + 1).toNat = s.blk.rc.toNat + 1 := toNat_add_one_of_lt (h.countsInRange hctl).1
  have samples : s.blk.rc.toNat + 1 ≤ 65535 := by have := s.blk.pRep.isLt; omega
  exact
    { budgetPositive := h.budgetPositive
      indexInRange := h.indexInRange
      countsInRange := fun _ => ⟨by simpa only [counted] using hrep, BitVec.toNat_pos_of_ne_zero h.budgetPositive⟩
      sumsInRange := ⟨by simpa only [counted] using accumulate_inRange re samples h.sumsInRange.1,
        by simpa only [counted] using accumulate_inRange im samples h.sumsInRange.2⟩
      recordsMatchState := ⟨fun hc => absurd hctl hc, h.recordsMatchState.2⟩
      datapathClear := by simp [datapathClear, hctl]
      programLegal := h.programLegal
      faultRecordLegal := h.faultRecordLegal }

/-- A point before the last keeps the invariant: the index below the last one goes up by one
(43_measurement_poller.md R165). -/
theorem inv_pollAdvanced (h : Inv s) (hctl : s.blk.ctl = .sweeping) (hidx : s.blk.idx ≠ s.blk.pNinc)
    (shadow : Option Byte) :
    Inv { s with blk := { s.blk with
      idx := s.blk.idx + 1
      rc := 0
      sumRe := 0
      sumIm := 0
      sub := .advancing
      failPolls := 0
      cr1Shadow := shadow } } := by
  obtain ⟨loaded, index⟩ := h.indexInRange (.inr (.inl hctl))
  have below : s.blk.idx.toNat < s.blk.pNinc.toNat := Nat.lt_of_le_of_ne index fun he => hidx (BitVec.eq_of_toNat_eq he)
  exact
    { budgetPositive := h.budgetPositive
      indexInRange := fun _ => ⟨loaded, by rw [toNat_add_one_of_lt below]; exact below⟩
      countsInRange := fun _ =>
        ⟨Nat.zero_lt_of_lt (h.countsInRange hctl).1, BitVec.toNat_pos_of_ne_zero h.budgetPositive⟩
      sumsInRange := by simp
      recordsMatchState := ⟨fun hc => absurd hctl hc, h.recordsMatchState.2⟩
      datapathClear := by simp [datapathClear, hctl]
      programLegal := h.programLegal
      faultRecordLegal := h.faultRecordLegal }

/-- The last point keeps the invariant (43_measurement_poller.md R165). -/
theorem inv_pollCompleted (h : Inv s) (hctl : s.blk.ctl = .sweeping) (hidx : s.blk.idx = s.blk.pNinc) :
    Inv { s with blk := { s.blk with
      ctl := .complete, sub := .none, rc := 0, sumRe := 0, sumIm := 0, failPolls := 0 } } := by
  obtain ⟨noFault, _⟩ := faultFree_of_inv h (by simp [hctl])
  exact
    { budgetPositive := h.budgetPositive
      indexInRange := fun _ => h.indexInRange (.inr (.inl hctl))
      countsInRange := by simp
      sumsInRange := by simp
      recordsMatchState := by simp [recordsMatchState, noFault]
      datapathClear := by simp [datapathClear, hidx]
      programLegal := h.programLegal
      faultRecordLegal := h.faultRecordLegal }

end Sweeping

/-! ### The invariant, for a command, a step and a run -/

/-- Every effect of a command leaves a block that meets the invariant. -/
theorem effect_keeps_inv {i : Instr} {s : State} {events : List BusEvent} {b : Block} {r : Response}
    (he : Effect i s events b r) (h : Inv s) : Inv { s with blk := b } := by
  cases he with
  | illegal => exact h
  | encoded => exact h
  | notEncoded => exact h
  | notConfigured => exact h
  | configured start inc clk ninc settle mult rep _ startCode incCode hs hsc hic hm hr _ =>
    exact inv_loadProgram h ninc settle hs hsc hic hm hr
  | configureFailed _ _ _ _ _ _ _ _ _ _ _ _ x => exact inv_faultEntry h true (.bus true x.1) (by simp [raiseFaultCode])
  | registerReadFailed _ _ addr => exact inv_faulted h (.bus false addr) (by simp [raiseFaultCode])
  | registerWriteFailed _ _ addr =>
    exact inv_faulted (inv_setShadow h addr none) (.bus true addr) (by simp [raiseFaultCode])
  | registerChanged _ _ addr change v _ hl =>
    exact inv_registerCommit (inv_setShadow h addr (some (change v))) i (by simpa using hl)
  | pollReadFailed _ _ addr => exact inv_faulted h (.bus false addr) (by simp [raiseFaultCode])
  | pollCounted _ _ hs _ _ hb => exact inv_pollCounted h hs hb
  | pollTimedOut => exact inv_faulted h .sweepTimeout (by simp [raiseFaultCode])
  | pollModeReadFailed => exact inv_faulted h (.bus false 0x80) (by simp [raiseFaultCode])
  | pollModeWriteFailed => exact inv_faulted (inv_setShadow h 0x80 none) (.bus true 0x80) (by simp [raiseFaultCode])
  | pollRepeated _ _ _ _ _ _ _ hs _ _ hm => exact inv_pollRepeated h hs hm _ _ _
  | pollAdvanced _ _ _ _ _ _ _ hs _ _ _ _ hi => exact inv_pollAdvanced h hs hi _
  | pollCompleted _ _ _ _ _ _ hs _ _ _ _ hi => exact inv_pollCompleted h hs hi
  | pollDisagreed _ st => exact inv_faulted h (.unexpectedStatus st) (by simp [raiseFaultCode])

/-- Every command keeps the invariant. -/
theorem exec_keeps_inv {i : Instr} {s t : State} (h : Inv s) (hexec : exec i s = .next t) : Inv t := by
  obtain ⟨events, b, r, he, rfl⟩ := effect_of_exec hexec
  exact inv_of_blk (s := { s with blk := b }) rfl rfl (effect_keeps_inv he h)

/-- The block's reset values meet the invariant, under any poll budget but 0 (10_state.md R40). -/
theorem inv_of_blk_reset {s : State} (hblk : s.blk = Block.reset) (hbudget : s.pollBudget ≠ 0) : Inv s := by
  refine ⟨hbudget, ?_, ?_, ?_, ?_, ?_, ?_, ?_⟩ <;>
    simp [indexInRange, programNeeded, countsInRange, sumsInRange, recordsMatchState, datapathClear, programLegal,
      faultRecordLegal, hblk, Block.reset]

/-- Settles O48: of the four things a step can do, two leave the block as it is, one resets it, and the fourth is a
command. -/
theorem stepKeepsTheReachableInvariant : Obligations.StepKeepsTheReachableInvariant := by
  intro s t h hstep
  rcases step_cases s with ⟨_, idle⟩ | ⟨rest, _, reset⟩ | ⟨f, rest, i, _, _, command⟩ | ⟨f, rest, op, _, _, reserved⟩
  · obtain rfl : idleStep s = t := Host.Outcome.next.inj (idle.symm.trans hstep)
    exact inv_of_blk (s := s) rfl rfl h
  · obtain rfl : resetBlock { s with inputs := rest } = t := Host.Outcome.next.inj (reset.symm.trans hstep)
    exact inv_of_blk_reset rfl h.budgetPositive
  · exact exec_keeps_inv (inv_of_blk (s := s) (t := { s with inputs := rest }) rfl rfl h) (command.symm.trans hstep)
  · rw [reserved, execReserved, runCommand_eq, conclude_raiseIllegal] at hstep
    obtain rfl := Host.Outcome.next.inj hstep
    exact inv_of_blk (s := s) rfl rfl h

/-- A poll budget is one more than a number below its width's largest, so it is not 0 (00_scope.md R5). -/
theorem pollBudget_ne_zero : Config.pollBudget ≠ 0 := by
  have small : Config.pollBudgetLessOne.val + 1 < 2 ^ 32 := by
    have := Config.pollBudgetLessOne.isLt
    omega
  intro h
  have zero : Config.pollBudget.toNat = 0 := by rw [h]; rfl
  rw [Config.pollBudget, BitVec.toNat_ofNat, Nat.mod_eq_of_lt small] at zero
  exact Nat.succ_ne_zero _ zero

/-- Settles O49: the block is at its reset values and the free budget is not 0. -/
theorem resetMeetsTheReachableInvariant : Obligations.ResetMeetsTheReachableInvariant :=
  inv_of_blk_reset rfl pollBudget_ne_zero

/-- `stepped` is the state that a step answers. -/
theorem step_eq_next_stepped (s : State) : step s = .next (stepped s) := by
  have answers : ∃ t, step s = .next t := by
    rcases step_cases s with ⟨_, h⟩ | ⟨_, _, h⟩ | ⟨_, rest, i, _, _, h⟩ | ⟨_, _, _, _, _, h⟩
    · exact ⟨_, h⟩
    · exact ⟨_, h⟩
    · exact h ▸ exec_answers_next i { s with inputs := rest }
    · exact ⟨_, h⟩
  obtain ⟨t, h⟩ := answers
  rw [stepped, h]

/-- What every step keeps, a run keeps. -/
theorem runFor_keeps {P : State → Prop} (hstep : ∀ s t, P s → step s = .next t → P t) (k : Nat) {s : State} (h : P s) :
    P (runFor k s) := by
  induction k generalizing s with
  | zero => exact h
  | succ k ih => exact ih (hstep s _ h (step_eq_next_stepped s))

/-- Settles O50: the invariant holds after reset, and every step of the run keeps it. -/
theorem reachableStatesMeetTheInvariant : Obligations.ReachableStatesMeetTheInvariant := by
  intro inputs answers budget k hbudget
  exact runFor_keeps stepKeepsTheReachableInvariant k (inv_of_blk_reset rfl hbudget)

end Sys2Proof.Machine
end

section
/-! PROOFS of the state family (10_state.md), continued: the shadows and their decoded view, the program registers and the
state port. -/

namespace Sys2Proof.Machine

/-! ### The shadows that a trace leaves -/

theorem shadowAfter_append (addr : Addr) (shadow : Option Byte) (first later : List BusEvent) :
    shadowAfter addr shadow (first ++ later) = shadowAfter addr (shadowAfter addr shadow first) later :=
  List.foldl_append

@[simp] theorem shadowAfter_nil (addr : Addr) (shadow : Option Byte) : shadowAfter addr shadow [] = shadow := rfl

@[simp] theorem shadowAfter_read (addr : Addr) (shadow : Option Byte) (a : Addr) (byte : Option Byte)
    (later : List BusEvent) : shadowAfter addr shadow (.read a byte :: later) = shadowAfter addr shadow later := rfl

@[simp] theorem shadowAfter_write (addr : Addr) (shadow : Option Byte) (a : Addr) (byte : Byte) (ok : Bool)
    (later : List BusEvent) :
    shadowAfter addr shadow (.write a byte ok :: later) =
      shadowAfter addr (if a = addr then (if ok then some byte else none) else shadow) later := rfl

/-- Reads change no shadow (10_state.md R37). -/
@[simp] theorem shadowAfter_readEvents (addr : Addr) (shadow : Option Byte) (xs : List (Addr × Byte)) :
    shadowAfter addr shadow (readEvents xs) = shadow := by
  induction xs with
  | nil => rfl
  | cons x rest ih => exact ih

/-- Writes of other registers change no shadow (10_state.md R37). -/
theorem shadowAfter_writeEvents {addr : Addr} {ws : List (Addr × Byte)} (h : ∀ x ∈ ws, x.1 ≠ addr)
    (shadow : Option Byte) : shadowAfter addr shadow (writeEvents ws) = shadow := by
  induction ws with
  | nil => rfl
  | cons x rest ih =>
    have other : x.1 ≠ addr := h x List.mem_cons_self
    calc shadowAfter addr shadow (writeEvents (x :: rest))
        = shadowAfter addr shadow (writeEvents rest) := by simp [writeEvents, other]
      _ = shadow := ih fun y hy => h y (List.mem_cons_of_mem _ hy)

/-- The two shadows of `b` are those that the transactions `events` leave of the shadows of `before`. -/
def ShadowsFollow (before : Block) (events : List BusEvent) (b : Block) : Prop :=
  b.cr1Shadow = shadowAfter 0x80 before.cr1Shadow events ∧ b.cr2Shadow = shadowAfter 0x81 before.cr2Shadow events

/-- The shadow update of one write, of whatever register (10_state.md R37). -/
theorem shadowsFollow_write (b : Block) (addr : Addr) (byte : Byte) (ok : Bool) :
    ShadowsFollow b [.write addr byte ok] (setShadow b addr (if ok then some byte else none)) := by
  constructor
  · exact setShadow_cr1Shadow b addr _
  · by_cases h : addr = cr1Addr
    · subst h; rfl
    · exact (setShadow_cr2Shadow b addr _).trans (if_neg h)

/-- Successful writes of program registers leave both shadows alone (10_state.md R37). -/
theorem shadowsFollow_writeEvents {ws : List (Addr × Byte)} (h : ∀ x ∈ ws, x.1 ≠ cr1Addr ∧ x.1 ≠ cr2Addr) (b : Block) :
    ShadowsFollow b (writeEvents ws) b :=
  ⟨(shadowAfter_writeEvents (fun x hx => (h x hx).1) _).symm, (shadowAfter_writeEvents (fun x hx => (h x hx).2) _).symm⟩

/-- Every effect of a command leaves the shadows its transactions say. -/
theorem effect_shadowsFollow {i : Instr} {s : State} {events : List BusEvent} {b : Block} {r : Response}
    (he : Effect i s events b r) : ShadowsFollow s.blk events b := by
  cases he with
  | illegal => exact ⟨rfl, rfl⟩
  | encoded => exact ⟨rfl, rfl⟩
  | notEncoded => exact ⟨rfl, rfl⟩
  | notConfigured => exact ⟨rfl, rfl⟩
  | configured _ _ _ ninc settle mult _ _ startCode incCode =>
    exact shadowsFollow_writeEvents (sweepProgramBytes_plain startCode incCode ninc settle mult) s.blk
  | configureFailed _ _ _ ninc settle mult _ _ startCode incCode done later x _ _ _ _ _ hx =>
    have plain := sweepProgramBytes_plain startCode incCode ninc settle mult
    rw [hx] at plain
    obtain ⟨cr1, cr2⟩ := shadowsFollow_writeEvents (fun y hy => plain y (List.mem_append_left _ hy)) s.blk
    obtain ⟨notCr1, notCr2⟩ : x.1 ≠ 0x80 ∧ x.1 ≠ 0x81 := plain x (List.mem_append_right _ List.mem_cons_self)
    constructor
    · rw [shadowAfter_append, ← cr1, shadowAfter_write, if_neg notCr1]; rfl
    · rw [shadowAfter_append, ← cr2, shadowAfter_write, if_neg notCr2]; rfl
  | registerReadFailed => exact ⟨rfl, rfl⟩
  | registerWriteFailed _ _ addr change v => exact shadowsFollow_write s.blk addr (change v) false
  | registerChanged _ _ addr change v =>
    obtain ⟨cr1, cr2⟩ := shadowsFollow_write s.blk addr (change v) true
    exact ⟨(registerCommit_cr1Shadow ..).trans cr1, (registerCommit_cr2Shadow ..).trans cr2⟩
  | pollReadFailed => simp [ShadowsFollow, shadowAfter_append]
  | pollCounted => exact ⟨rfl, rfl⟩
  | pollTimedOut => exact ⟨rfl, rfl⟩
  | pollModeReadFailed => exact ⟨rfl, rfl⟩
  | pollModeWriteFailed => exact ⟨rfl, rfl⟩
  | pollRepeated => exact ⟨rfl, rfl⟩
  | pollAdvanced => exact ⟨rfl, rfl⟩
  | pollCompleted => exact ⟨rfl, rfl⟩
  | pollDisagreed => exact ⟨rfl, rfl⟩

/-- Settles O54: by the effect that takes place; in each, the block's shadows are those of the trace. -/
theorem shadowsFollowTheWrites : Obligations.ShadowsFollowTheWrites := by
  intro i s t hexec
  obtain ⟨events, b, r, he, rfl⟩ := effect_of_exec hexec
  exact effect_shadowsFollow he

/-! ### The decoded view -/

/-- The mode that a mode write leaves in CR1[7:4] is the one written: the kept bits lie below (30_encoding.md R82). -/
theorem modeOf_modeByte (m : Mode) (v : Byte) : modeOf (modeByte m v) = some m := by
  have high : (modeByte m v).extractLsb' 4 4 = (modePattern m).extractLsb' 4 4 := by
    have cleared : (0x07 : Byte).extractLsb' 4 4 = 0 := rfl
    rw [modeByte, BitVec.extractLsb'_or, BitVec.extractLsb'_and, cleared]
    simp
  rw [modeOf, high]
  cases m <;> rfl

/-- A field whose bits the mask clears and the code replaces holds the code. -/
theorem extractLsb'_replacedField {k n : Nat} (fits : k + n ≤ 8) {mask : Byte} (cleared : mask.extractLsb' k n = 0)
    (code : BitVec n) (v : Byte) : ((v &&& mask) ||| (code.setWidth 8 <<< k)).extractLsb' k n = code := by
  have placed : (code.setWidth 8 <<< k).extractLsb' k n = code := by
    apply BitVec.eq_of_getLsbD_eq
    intro j hj
    have inByte : k + j < 8 := by omega
    simp [hj, inByte]
  rw [BitVec.extractLsb'_or, BitVec.extractLsb'_and, cleared, placed]
  simp

/-- SET_RANGE leaves its code in CR1[2:1] (41_control_register.md R124). -/
theorem extractLsb'_rangeByte (code : BitVec 2) (v : Byte) : (rangeByte code v).extractLsb' 1 2 = code :=
  extractLsb'_replacedField (mask := 0xF9) (by decide) rfl code v

/-- SET_GAIN leaves its code in CR1[0] (41_control_register.md R125). -/
theorem extractLsb'_gainByte (code : BitVec 1) (v : Byte) : (gainByte code v).extractLsb' 0 1 = code := by
  have field := extractLsb'_replacedField (k := 0) (mask := 0xFE) (by decide) rfl code v
  rwa [BitVec.shiftLeft_zero] at field

/-- SET_CLOCK_SOURCE leaves its bit in CR2[CLK_SRC_BIT] (41_control_register.md R126). -/
theorem extractLsb'_clockByte (src : BitVec 1) (v : Byte) :
    (clockByte src v).extractLsb' Config.clkSrcBit 1 = src :=
  extractLsb'_replacedField (mask := 0xF7) (by decide) rfl src v

/-- Settles O26: of the effects that are answered OK after a transaction, the control-register commands and the two mode
writes of POLL leave the byte they wrote in the shadow, and the others leave the shadows alone. -/
theorem decodedViewShowsTheLastCommand : Obligations.DecodedViewShowsTheLastCommand := by
  intro i s t hexec htrace hok
  obtain ⟨events, b, r, he, rfl⟩ := effect_of_exec hexec
  obtain ⟨_, hr, hstatus⟩ := hok
  obtain rfl := Option.some.inj hr
  cases he with
  | illegal => exact absurd rfl htrace
  | encoded => exact absurd rfl htrace
  | notEncoded => exact absurd rfl htrace
  | notConfigured => exact absurd rfl htrace
  | configured => rfl
  | configureFailed => nomatch hstatus
  | registerReadFailed => nomatch hstatus
  | registerWriteFailed => nomatch hstatus
  | registerChanged _ _ addr change v hi =>
    cases i with
    | encode _ _ => nomatch hi
    | configure _ _ _ _ _ _ _ => nomatch hi
    | poll => nomatch hi
    | setRange code => cases hi; exact congrArg some (extractLsb'_rangeByte code v)
    | setGain code => cases hi; exact congrArg some (extractLsb'_gainByte code v)
    | setClockSource src => cases hi; exact congrArg some (extractLsb'_clockByte src v)
    | standby => cases hi; exact congrArg some (modeOf_modeByte .standby v)
    | powerDown => cases hi; exact congrArg some (modeOf_modeByte .powerDown v)
    | init => cases hi; exact congrArg some (modeOf_modeByte .init v)
    | start => cases hi; exact congrArg some (modeOf_modeByte .start v)
  | pollReadFailed => nomatch hstatus
  | pollCounted => exact .inl rfl
  | pollTimedOut => nomatch hstatus
  | pollModeReadFailed => nomatch hstatus
  | pollModeWriteFailed => nomatch hstatus
  | pollRepeated _ _ _ _ _ _ v => exact .inr (.inl (congrArg some (modeOf_modeByte .repeat v)))
  | pollAdvanced _ _ _ _ _ _ v => exact .inr (.inr (congrArg some (modeOf_modeByte .increment v)))
  | pollCompleted => exact .inl rfl
  | pollDisagreed => nomatch hstatus

/-! ### The program registers -/

/-- Settles O55: no effect of another command touches them, whether it commits, faults or is rejected;
the field lemmas of the updates say so, effect by effect. -/
theorem onlyConfigureWritesTheProgram : Obligations.OnlyConfigureWritesTheProgram := by
  intro i s t hexec hi
  obtain ⟨events, b, r, he, rfl⟩ := effect_of_exec hexec
  cases he with
  | configured => exact (hi _ _ _ _ _ _ _ rfl).elim
  | configureFailed => exact (hi _ _ _ _ _ _ _ rfl).elim
  | notConfigured => exact (hi _ _ _ _ _ _ _ rfl).elim
  | _ => simp

/-! ### The state port -/

theorem ctlCode_injective : Function.Injective ctlCode := by
  intro a b h
  revert h; cases a <;> cases b <;> decide

theorem subCode_injective : Function.Injective subCode := by
  intro a b h
  revert h; cases a <;> cases b <;> decide

theorem faultCodeBits_injective : Function.Injective faultCodeBits := by
  intro a b h
  revert h; cases a <;> cases b <;> decide

/-- Equal ports show equal shadows, whatever byte stands beside a valid bit of 0 (10_state.md R41). -/
theorem shadow_eq_of_shadowPort_eq {m n : Nat} {addr : Addr} {x y : Option Byte}
    (h : shadowPort m addr x = shadowPort n addr y) : x = y := by
  cases x with
  | none =>
    cases y with
    | none => rfl
    | some byte => simp [shadowPort] at h
  | some byte =>
    cases y with
    | none => simp [shadowPort] at h
    | some byte' => simpa [shadowPort] using h

/-- Settles O11: every field of the port gives back its field of the block. -/
theorem statePortTellsBlocksApart : Obligations.StatePortTellsBlocksApart := by
  intro s t h
  cases s with | mk b _ _ draws _ _ _
  cases t with | mk b' _ _ draws' _ _ _
  cases b
  cases b'
  simp only [statePort, StatePort.mk.injEq] at h
  obtain ⟨ctl, sub, configured, pStart, pInc, pClk, pNinc, pSettle, pMult, pRep, pStartCode, pIncCode, idx, rc, sumRe,
    sumIm, failPolls, faultCode, faultInfo, cr1, cr2⟩ := h
  rw [Block.mk.injEq]
  exact ⟨ctlCode_injective ctl, subCode_injective sub, configured, pStart, pInc, pClk, pNinc, pSettle, pMult, pRep,
    pStartCode, pIncCode, idx, rc, sumRe, sumIm, failPolls, faultCodeBits_injective faultCode, faultInfo,
    shadow_eq_of_shadowPort_eq cr1, shadow_eq_of_shadowPort_eq cr2⟩

end Sys2Proof.Machine
end

section
/-! PROOFS of the memory family (20_memory.md): the shape of every transaction trace, what follows of it for the address map
and for the read-modify-write, the use of the device's answers, and the step without input. -/

namespace Sys2Proof.Machine

/-! ### The two shapes of a trace -/

/-- A transaction of a listed register that is no write of a control register: a listed read, or a write of a program
register, 0x82 to 0x8B (20_memory.md R51). -/
def eventPlain : BusEvent → Bool
  | .read addr byte => eventListed (.read addr byte)
  | .write addr _ _ => 0x82 ≤ addr.toNat && addr.toNat ≤ 0x8B

/-- No transaction of the trace writes a control register, and all are of listed registers. -/
def PlainTrace (events : List BusEvent) : Prop := ∀ event ∈ events, eventPlain event = true

/-- What a command's trace can be: plain throughout, or plain up to the one read-modify-write of a control register that
ends it (20_memory.md R60). -/
inductive TraceShape : List BusEvent → Prop
  | plain {events : List BusEvent} (h : PlainTrace events) : TraceShape events
  | modified {first : List BusEvent} {addr : Addr} (v w : Byte) (ok : Bool) (h : PlainTrace first)
      (ha : addr = 0x80 ∨ addr = 0x81) : TraceShape (first ++ [.read addr (some v), .write addr w ok])

theorem eventListed_of_eventPlain {event : BusEvent} (h : eventPlain event = true) : eventListed event = true := by
  cases event with
  | read addr byte => exact h
  | write addr byte ok =>
    simp only [eventPlain, Bool.and_eq_true, decide_eq_true_eq] at h
    simp only [eventListed, Bool.and_eq_true, decide_eq_true_eq]
    omega

theorem eventPlain_read_control {addr : Addr} (ha : addr = 0x80 ∨ addr = 0x81) (byte : Option Byte) :
    eventPlain (.read addr byte) = true := by
  rcases ha with rfl | rfl <;> rfl

theorem eventPlain_write_control {addr : Addr} (ha : addr = 0x80 ∨ addr = 0x81) (byte : Byte) (ok : Bool) :
    eventPlain (.write addr byte ok) = false := by
  rcases ha with rfl | rfl <;> rfl

theorem eventListed_write_control {addr : Addr} (ha : addr = 0x80 ∨ addr = 0x81) (byte : Byte) (ok : Bool) :
    eventListed (.write addr byte ok) = true := by
  rcases ha with rfl | rfl <;> rfl

theorem plainTrace_nil : PlainTrace [] := List.forall_mem_nil _

theorem plainTrace_singleton {event : BusEvent} (h : eventPlain event = true) : PlainTrace [event] :=
  List.forall_mem_singleton.mpr h

theorem PlainTrace.append {first later : List BusEvent} (h : PlainTrace first) (h' : PlainTrace later) :
    PlainTrace (first ++ later) :=
  List.forall_mem_append.mpr ⟨h, h'⟩

/-! ### The shape of each command's trace -/

/-- The bytes of a program go to the program registers, 0x82 to 0x8B (40_encoder_and_program.md R107). -/
theorem eventPlain_write_programByte {startCode incCode : BitVec 24} {ninc : BitVec 9} {settle : BitVec 10}
    {mult : BitVec 2} {x : Addr × Byte} (hx : x ∈ sweepProgramBytes startCode incCode ninc settle mult) (ok : Bool) :
    eventPlain (.write x.1 x.2 ok) = true := by
  have addresses : ∀ a ∈ (sweepProgramBytes startCode incCode ninc settle mult).map Prod.fst,
      (decide (0x82 ≤ a.toNat) && decide (a.toNat ≤ 0x8B)) = true := by
    simp [sweepProgramBytes]
  exact addresses x.1 (List.mem_map_of_mem hx)

theorem plainTrace_writeEvents {ws : List (Addr × Byte)} (h : ∀ x ∈ ws, eventPlain (.write x.1 x.2 true) = true) :
    PlainTrace (writeEvents ws) :=
  List.forall_mem_map.mpr h

/-- The registers a POLL reads before any mode write are the status and the data registers (43_measurement_poller.md
R166). -/
theorem eventPlain_read_polled {addr : Addr} (h : addr ∈ ([0x8F, 0x94, 0x95, 0x96, 0x97] : List Addr))
    (byte : Option Byte) : eventPlain (.read addr byte) = true := by
  simp only [List.mem_cons, List.not_mem_nil, or_false] at h
  rcases h with rfl | rfl | rfl | rfl | rfl <;> rfl

/-- The reads of a POLL as far as they succeed. -/
theorem plainTrace_polledReads {done : List (Addr × Byte)} {later : List Addr}
    (hd : done.map Prod.fst ++ later = [0x8F, 0x94, 0x95, 0x96, 0x97]) : PlainTrace (readEvents done) :=
  List.forall_mem_map.mpr fun _ hx =>
    eventPlain_read_polled (hd ▸ List.mem_append_left later (List.mem_map_of_mem hx)) _

theorem plainTrace_samplePoll {st rh rl ih il : Byte} : PlainTrace (readEvents (samplePoll st rh rl ih il)) :=
  plainTrace_polledReads (later := []) rfl

/-- The register that a control-register command reads and writes is CR1 or CR2 (41_control_register.md R121). -/
theorem registerChange_addr {i : Instr} {addr : Addr} {change : Byte → Byte}
    (h : registerChange i = some (addr, change)) : addr = 0x80 ∨ addr = 0x81 := by
  cases i with
  | setRange | setGain | standby | powerDown | init | start => cases h; exact .inl rfl
  | setClockSource => cases h; exact .inr rfl
  | encode | configure | poll => cases h

/-- Every command's trace has one of the two shapes. -/
theorem effect_traceShape {i : Instr} {s : State} {events : List BusEvent} {b : Block} {r : Response}
    (he : Effect i s events b r) : TraceShape events := by
  cases he with
  | illegal => exact .plain plainTrace_nil
  | encoded => exact .plain plainTrace_nil
  | notEncoded => exact .plain plainTrace_nil
  | notConfigured => exact .plain plainTrace_nil
  | configured => exact .plain (plainTrace_writeEvents fun x hx => eventPlain_write_programByte hx true)
  | configureFailed _ _ _ ninc settle mult _ _ startCode incCode done later x _ _ _ _ _ hx =>
    have isProgramByte : ∀ y ∈ done ++ x :: later, y ∈ sweepProgramBytes startCode incCode ninc settle mult :=
      fun y hy => hx ▸ hy
    have written : PlainTrace (writeEvents done) := plainTrace_writeEvents fun y hy =>
      eventPlain_write_programByte (isProgramByte y (List.mem_append_left _ hy)) true
    have failed := eventPlain_write_programByte (isProgramByte x (List.mem_append_right _ List.mem_cons_self)) false
    exact .plain (written.append (plainTrace_singleton failed))
  | registerReadFailed _ _ addr change hi =>
    exact .plain (plainTrace_singleton (eventPlain_read_control (registerChange_addr hi) none))
  | registerWriteFailed _ _ addr change v hi =>
    exact .modified v (change v) false plainTrace_nil (registerChange_addr hi)
  | registerChanged _ _ addr change v hi =>
    exact .modified v (change v) true plainTrace_nil (registerChange_addr hi)
  | pollReadFailed _ done addr later _ hd =>
    have polled : addr ∈ ([0x8F, 0x94, 0x95, 0x96, 0x97] : List Addr) :=
      hd ▸ List.mem_append_right _ List.mem_cons_self
    exact .plain ((plainTrace_polledReads hd).append (plainTrace_singleton (eventPlain_read_polled polled none)))
  | pollCounted => exact .plain (plainTrace_singleton rfl)
  | pollTimedOut => exact .plain (plainTrace_singleton rfl)
  | pollModeReadFailed => exact .plain (plainTrace_samplePoll.append (plainTrace_singleton rfl))
  | pollModeWriteFailed _ _ _ _ _ _ v m =>
    exact .modified v (modeByte m v) false plainTrace_samplePoll (.inl rfl)
  | pollRepeated _ _ _ _ _ _ v => exact .modified v (modeByte .repeat v) true plainTrace_samplePoll (.inl rfl)
  | pollAdvanced _ _ _ _ _ _ v => exact .modified v (modeByte .increment v) true plainTrace_samplePoll (.inl rfl)
  | pollCompleted => exact .plain plainTrace_samplePoll
  | pollDisagreed => exact .plain plainTrace_samplePoll

/-- A step makes no transaction, or it ends as an effect of a command says: nothing but a command issues transactions
(20_memory.md R62). -/
theorem step_trace_cases {s t : State} (hstep : step s = .next t) :
    t.trace = [] ∨ ∃ i s' events b r, Effect i s' events b r ∧ t = outcomeOf s' events b r := by
  rcases step_cases s with ⟨_, idle⟩ | ⟨rest, _, reset⟩ | ⟨f, rest, i, _, _, command⟩ | ⟨f, rest, op, _, _, reserved⟩
  · obtain rfl : idleStep s = t := Host.Outcome.next.inj (idle.symm.trans hstep)
    exact .inl rfl
  · obtain rfl : resetBlock { s with inputs := rest } = t := Host.Outcome.next.inj (reset.symm.trans hstep)
    exact .inl rfl
  · exact .inr ⟨i, { s with inputs := rest }, effect_of_exec (command.symm.trans hstep)⟩
  · rw [reserved, execReserved, runCommand_eq, conclude_raiseIllegal] at hstep
    obtain rfl := Host.Outcome.next.inj hstep
    exact .inl rfl

/-- Every step's trace has one of the two shapes. -/
theorem step_traceShape {s t : State} (hstep : step s = .next t) : TraceShape t.trace := by
  rcases step_trace_cases hstep with empty | ⟨_, _, _, _, _, he, rfl⟩
  · exact empty ▸ .plain plainTrace_nil
  · exact effect_traceShape he

/-! ### The address map and the read-modify-write -/

/-- In a trace of either shape every transaction is of a listed register, with the right it has there. -/
theorem TraceShape.listed {events : List BusEvent} (h : TraceShape events) :
    ∀ event ∈ events, eventListed event = true := by
  have ofPlain : ∀ {first}, PlainTrace first → ∀ event ∈ first, eventListed event = true :=
    fun plain event hevent => eventListed_of_eventPlain (plain event hevent)
  cases h with
  | plain h => exact ofPlain h
  | modified v w ok h ha =>
    have readListed := eventListed_of_eventPlain (eventPlain_read_control ha (some v))
    have writeListed := eventListed_write_control ha w ok
    exact List.forall_mem_append.mpr ⟨ofPlain h, by simp [readListed, writeListed]⟩

/-- Settles O51: by the shape of the step's trace. -/
theorem onlyListedRegistersAreAccessed : Obligations.OnlyListedRegistersAreAccessed :=
  fun _ _ hstep => (step_traceShape hstep).listed

/-- A plain trace holds no write of a control register. -/
theorem PlainTrace.not_mem_write_control {events : List BusEvent} (h : PlainTrace events) {addr : Addr}
    (ha : addr = 0x80 ∨ addr = 0x81) (w : Byte) (ok : Bool) : .write addr w ok ∉ events := fun hmem =>
  Bool.false_ne_true ((eventPlain_write_control ha w ok).symm.trans (h _ hmem))

/-- A write of a control register in a trace of either shape is the last transaction, and its read stands right before
it: the transactions up to that read hold no such write. -/
theorem TraceShape.write_control_follows_read {before after : List BusEvent} {addr : Addr} {w : Byte} {ok : Bool}
    (h : TraceShape (before ++ .write addr w ok :: after)) (ha : addr = 0x80 ∨ addr = 0x81) :
    ∃ earlier v, before = earlier ++ [.read addr (some v)] := by
  generalize hsplit : before ++ .write addr w ok :: after = events at h
  cases h with
  | plain h => exact absurd (hsplit ▸ List.mem_append_right _ List.mem_cons_self) (h.not_mem_write_control ha w ok)
  | @modified first addr' v w' ok' h ha' =>
    have upToRead : PlainTrace (first ++ [.read addr' (some v)]) :=
      h.append (plainTrace_singleton (eventPlain_read_control ha' _))
    rcases List.eq_nil_or_concat after with rfl | ⟨inner, last, rfl⟩
    · have both : before ++ [.write addr w ok] = (first ++ [.read addr' (some v)]) ++ [.write addr' w' ok'] := by
        simpa using hsplit
      obtain ⟨beforeEq, writeEq⟩ := List.append_inj' both rfl
      simp only [List.cons.injEq, BusEvent.write.injEq] at writeEq
      obtain ⟨⟨rfl, _, _⟩, _⟩ := writeEq
      exact ⟨first, v, beforeEq⟩
    · have both : (before ++ .write addr w ok :: inner) ++ [last] =
          (first ++ [.read addr' (some v)]) ++ [.write addr' w' ok'] := by
        simpa using hsplit
      obtain ⟨readEq, _⟩ := List.append_inj' both rfl
      exact absurd (readEq ▸ List.mem_append_right _ List.mem_cons_self) (upToRead.not_mem_write_control ha w ok)

/-- Settles O52: by the shape of the step's trace. -/
theorem controlRegisterWritesFollowTheirRead : Obligations.ControlRegisterWritesFollowTheirRead :=
  fun _ _ _ _ _ _ _ hstep hsplit ha => (hsplit ▸ step_traceShape hstep).write_control_follows_read ha

/-! ### The device's answers and the waiting block -/

/-- Settles O12: the outcome of every effect is the state before with as many answers used up as the trace is long. -/
theorem transactionsUseUpAnswersInOrder : Obligations.TransactionsUseUpAnswersInOrder := by
  intro i s t hexec
  obtain ⟨events, b, r, _, rfl⟩ := effect_of_exec hexec
  simp only [outcomeOf_trace, outcomeOf_answers, outcomeOf_draws, outcomeOf_inputs, outcomeOf_pollBudget, and_self]

/-- A step of a state whose command port is empty is the idle step. -/
theorem step_of_no_input {s : State} (h : s.inputs = []) : step s = .next (idleStep s) := by
  simp only [step, takeInput, h]

/-- Settles O9: the idle step clears the outputs and nothing else. -/
theorem withoutInputTheBlockWaits : Obligations.WithoutInputTheBlockWaits := fun _ h => step_of_no_input h

end Sys2Proof.Machine
end

section
/-! PROOFS of the encoding family (30_encoding.md): the words and bits of a frame, which frames decode to which command,
and from it that the decoder and the encoder agree; the reserved opcodes and the answer to every frame; the response. -/

namespace Sys2Proof.Machine

open BitVec (extractLsb'_append_eq_of_le extractLsb'_append_eq_right)

/-! ### The words and bits of a packed frame -/

section PackFrame

variable (e d c b a : BitVec 32) (op : BitVec 8)

@[simp] theorem frameA_packFrame : frameA (packFrame e d c b a op) = a := by
  simp (disch := decide) only [frameA, packFrame, extractLsb'_append_eq_of_le, Nat.reduceSub,
    extractLsb'_append_eq_right]

@[simp] theorem frameB_packFrame : frameB (packFrame e d c b a op) = b := by
  simp (disch := decide) only [frameB, packFrame, extractLsb'_append_eq_of_le, Nat.reduceSub,
    extractLsb'_append_eq_right]

@[simp] theorem frameC_packFrame : frameC (packFrame e d c b a op) = c := by
  simp (disch := decide) only [frameC, packFrame, extractLsb'_append_eq_of_le, Nat.reduceSub,
    extractLsb'_append_eq_right]

@[simp] theorem frameD_packFrame : frameD (packFrame e d c b a op) = d := by
  simp (disch := decide) only [frameD, packFrame, extractLsb'_append_eq_of_le, Nat.reduceSub,
    extractLsb'_append_eq_right]

@[simp] theorem frameE_packFrame : frameE (packFrame e d c b a op) = e := by
  simp (disch := decide) only [frameE, packFrame, extractLsb'_append_eq_of_le, Nat.reduceSub,
    BitVec.extractLsb'_eq_self]

/-- A bit of a packed frame is a bit of the opcode or of the word it lies in (30_encoding.md R70). -/
theorem getLsbD_packFrame (k : Nat) :
    (packFrame e d c b a op).getLsbD k =
      if k < 8 then op.getLsbD k else if k < 40 then a.getLsbD (k - 8) else if k < 72 then b.getLsbD (k - 40)
      else if k < 104 then c.getLsbD (k - 72) else if k < 136 then d.getLsbD (k - 104) else e.getLsbD (k - 136) := by
  have inWord (start : Nat) : k - start < 32 ↔ k < start + 32 := by omega
  simp only [packFrame, BitVec.getLsbD_append, Nat.sub_sub, inWord]

end PackFrame

/-! ### Which frames decode to which command -/

/-- The operands of a command stand in the words of `f` where the formats place them (30_encoding.md R73 to R76). -/
def OperandsIn (f : Frame) : Instr → Prop
  | .encode freq clk => frameA f = freq ∧ frameB f = clk
  | .configure start inc clk ninc settle mult rep =>
    frameA f = start ∧ frameB f = inc ∧ frameC f = clk ∧ (frameD f).extractLsb' 0 9 = ninc ∧
      (frameD f).extractLsb' 9 10 = settle ∧ (frameD f).extractLsb' 19 2 = mult ∧ (frameE f).extractLsb' 0 16 = rep
  | .setRange rangeCode => (frameA f).extractLsb' 0 2 = rangeCode
  | .setGain gainCode => (frameA f).extractLsb' 0 1 = gainCode
  | .setClockSource clkSrc => (frameA f).extractLsb' 0 1 = clkSrc
  | .standby | .powerDown | .init | .start | .poll => True

/-- Everything decoding can do: a command with its opcode and its operands, or a reserved opcode (30_encoding.md R71,
R78). -/
theorem decode_cases (f : Frame) :
    (reservedOpcode (frameOp f) = false ∧ ∃ i, decode f = .ok i ∧ frameOp f = opcodeOf i ∧ OperandsIn f i) ∨
    (reservedOpcode (frameOp f) = true ∧ decode f = .error (.reservedOpcode (frameOp f))) := by
  unfold decode
  split
  case h_11 =>
    refine .inr ⟨?_, rfl⟩
    simp only [imp_false] at *
    simp only [reservedOpcode, Bool.or_eq_true, Bool.and_eq_true, beq_iff_eq, decide_eq_true_eq]
    omega
  all_goals
    rename_i hop
    exact .inl ⟨by simp [reservedOpcode, hop], _, rfl, BitVec.eq_of_toNat_eq hop, by simp [OperandsIn]⟩

theorem decode_of_reserved {f : Frame} (h : reservedOpcode (frameOp f) = true) :
    decode f = .error (.reservedOpcode (frameOp f)) := by
  rcases decode_cases f with ⟨known, _⟩ | ⟨_, refused⟩
  · exact absurd (known.symm.trans h) Bool.false_ne_true
  · exact refused

theorem exists_decode_of_not_reserved {f : Frame} (h : reservedOpcode (frameOp f) = false) : ∃ i, decode f = .ok i := by
  rcases decode_cases f with ⟨_, i, decoded, _⟩ | ⟨reserved, _⟩
  · exact ⟨i, decoded⟩
  · exact absurd (h.symm.trans reserved) Bool.false_ne_true

/-- A frame decodes to the command whose opcode it carries and whose operands stand in its words. -/
theorem decode_eq_ok_iff {f : Frame} {i : Instr} : decode f = .ok i ↔ frameOp f = opcodeOf i ∧ OperandsIn f i := by
  constructor
  · intro h
    rcases decode_cases f with ⟨_, j, decoded, stands⟩ | ⟨_, refused⟩
    · obtain rfl : j = i := Except.ok.inj (decoded.symm.trans h)
      exact stands
    · exact nomatch refused.symm.trans h
  · rintro ⟨hop, operands⟩
    rw [decode, hop]
    cases i with
    | encode => obtain ⟨rfl, rfl⟩ := operands; rfl
    | configure => obtain ⟨rfl, rfl, rfl, rfl, rfl, rfl, rfl⟩ := operands; rfl
    | setRange | setGain | setClockSource => obtain rfl := operands; rfl
    | standby | powerDown | init | start | poll => rfl

/-- The frame of a command carries its opcode (30_encoding.md R71). -/
theorem frameOp_encode (i : Instr) : frameOp (encode i) = opcodeOf i := by
  cases i <;> exact Laws.EncodesOpcode.frameOp_packFrame ..

/-- A field widened to a word is the word's low bits. -/
theorem extractLsb'_setWidth_self {n : Nat} (fits : n ≤ 32) (x : BitVec n) : (x.setWidth 32).extractLsb' 0 n = x := by
  rw [BitVec.extractLsb'_setWidth_of_le (by omega), BitVec.extractLsb'_eq_self]

/-- The three fields of CONFIGURE's word `D` lie where the decoder looks for them (30_encoding.md R76). -/
theorem configureD_fields (ninc : BitVec 9) (settle : BitVec 10) (mult : BitVec 2) :
    (configureD ninc settle mult).extractLsb' 0 9 = ninc ∧ (configureD ninc settle mult).extractLsb' 9 10 = settle ∧
      (configureD ninc settle mult).extractLsb' 19 2 = mult := by
  simp (disch := decide) only [configureD, extractLsb'_append_eq_of_le, Nat.reduceSub, extractLsb'_append_eq_right,
    and_self]

/-- The operands of a command stand in its own frame. -/
theorem operandsIn_encode (i : Instr) : OperandsIn (encode i) i := by
  cases i with
  | encode freq clk => exact ⟨frameA_packFrame .., frameB_packFrame ..⟩
  | configure start inc clk ninc settle mult rep =>
    simpa [OperandsIn, encode, extractLsb'_setWidth_self] using configureD_fields ninc settle mult
  | setRange | setGain | setClockSource => simp [OperandsIn, encode, extractLsb'_setWidth_self]
  | standby | powerDown | init | start | poll => trivial

/-- Settles O1: the frame of a command carries its opcode and its operands, which is what the decoder looks at. -/
theorem decodeOfEncodeReturnsTheCommand : Obligations.DecodeOfEncodeReturnsTheCommand := fun i =>
  decode_eq_ok_iff.mpr ⟨frameOp_encode i, operandsIn_encode i⟩

/-! ### The bits that a format uses -/

/-- The word `w` is the low `n` bits of the word `x`: what the encoder keeps of a frame's word, of which every format
uses the low bits alone (30_encoding.md R73 to R77). -/
def KeepsLow (n : Nat) (w x : BitVec 32) : Prop :=
  n ≤ 32 ∧ ∀ j < 32, w.getLsbD j = (decide (j < n) && x.getLsbD j)

theorem keepsLow_zero (x : BitVec 32) : KeepsLow 0 0 x := ⟨by decide, by simp⟩

theorem keepsLow_word (x : BitVec 32) : KeepsLow 32 x x := ⟨Nat.le_refl 32, fun j hj => by simp [hj]⟩

theorem keepsLow_field {n : Nat} (fits : n ≤ 32) (x : BitVec 32) : KeepsLow n ((x.extractLsb' 0 n).setWidth 32) x :=
  ⟨fits, fun j hj => by simp [hj]⟩

/-- The fields of CONFIGURE's word `D` lie side by side from bit 0 on (30_encoding.md R76). -/
theorem keepsLow_configureD (x : BitVec 32) :
    KeepsLow 21 (configureD (x.extractLsb' 0 9) (x.extractLsb' 9 10) (x.extractLsb' 19 2)) x := by
  refine ⟨by decide, fun j hj => ?_⟩
  rw [configureD, BitVec.getLsbD_append, BitVec.getLsbD_append, BitVec.getLsbD_append]
  simp only [BitVec.getLsbD_extractLsb', BitVec.getLsbD_zero]
  split_ifs with ninc settle mult
  · have used : j < 21 := by omega
    simp [ninc, used]
  · have used : j < 21 := by omega
    have place : 9 + (j - 9) = j := by omega
    simp [settle, used, place]
  · have used : j < 21 := by omega
    have place : 19 + (j - 9 - 10) = j := by omega
    simp [mult, used, place]
  · have unused : ¬ j < 21 := by omega
    simp [unused]

/-- A frame packed from the low bits of the words of `f` has the bits of `f` there, and 0 elsewhere. -/
theorem getLsbD_packFrame_of_keepsLow {f : Frame} {used : Nat → Bool} {nE nD nC nB nA : Nat} {e d c b a : BitVec 32}
    {op : BitVec 8} (hop : frameOp f = op) (he : KeepsLow nE e (frameE f)) (hd : KeepsLow nD d (frameD f))
    (hc : KeepsLow nC c (frameC f)) (hb : KeepsLow nB b (frameB f)) (ha : KeepsLow nA a (frameA f))
    (hused : ∀ k < 168, used k = true ↔ k < 8 ∨ (8 ≤ k ∧ k < 8 + nA) ∨ (40 ≤ k ∧ k < 40 + nB) ∨
      (72 ≤ k ∧ k < 72 + nC) ∨ (104 ≤ k ∧ k < 104 + nD) ∨ (136 ≤ k ∧ k < 136 + nE)) :
    ∀ k < 168, (packFrame e d c b a op).getLsbD k = (used k && f.getLsbD k) := by
  obtain ⟨fitsE, he⟩ := he
  obtain ⟨fitsD, hd⟩ := hd
  obtain ⟨fitsC, hc⟩ := hc
  obtain ⟨fitsB, hb⟩ := hb
  obtain ⟨fitsA, ha⟩ := ha
  have word {w : BitVec 32} {n start k : Nat}
      (hw : ∀ j < 32, w.getLsbD j = (decide (j < n) && (f.extractLsb' start 32).getLsbD j))
      (low : start ≤ k) (high : k < start + 32) (hk : used k = true ↔ k < start + n) :
      w.getLsbD (k - start) = (used k && f.getLsbD k) := by
    have inWord : k - start < 32 := by omega
    have bound : used k = decide (k - start < n) := by rw [Bool.eq_iff_iff, hk, decide_eq_true_iff]; omega
    rw [hw _ inWord, bound, BitVec.getLsbD_extractLsb', decide_eq_true inWord, Bool.true_and, Nat.add_sub_cancel' low]
  intro k hk
  have usedAt := hused k hk
  subst hop
  rw [getLsbD_packFrame]
  split_ifs with inOp
  · simp [frameOp, usedAt.mpr (.inl inOp), inOp]
  · exact word ha (by omega) (by omega) (usedAt.trans (by omega))
  · exact word hb (by omega) (by omega) (usedAt.trans (by omega))
  · exact word hc (by omega) (by omega) (usedAt.trans (by omega))
  · exact word hd (by omega) (by omega) (usedAt.trans (by omega))
  · exact word he (by omega) (by omega) (usedAt.trans (by omega))

/-- Settles O2: the encoder packs the low bits that the decoder took from the frame's words, format by format. -/
theorem encodeOfDecodeKeepsTheUsedBits : Obligations.EncodeOfDecodeKeepsTheUsedBits := by
  intro f i hdec
  obtain ⟨hop, operands⟩ := decode_eq_ok_iff.mp hdec
  change ∀ k < 168, _ = (frameBitUsed (frameOp f) k && _)
  rw [hop]
  cases i with
  | encode =>
    obtain ⟨rfl, rfl⟩ := operands
    refine getLsbD_packFrame_of_keepsLow hop (keepsLow_zero _) (keepsLow_zero _) (keepsLow_zero _) (keepsLow_word _)
      (keepsLow_word _) fun k hk => ?_
    simp [frameBitUsed, opcodeOf]
    omega
  | configure =>
    obtain ⟨rfl, rfl, rfl, rfl, rfl, rfl, rfl⟩ := operands
    refine getLsbD_packFrame_of_keepsLow hop (keepsLow_field (by decide) _) (keepsLow_configureD _) (keepsLow_word _)
      (keepsLow_word _) (keepsLow_word _) fun k hk => ?_
    simp [frameBitUsed, opcodeOf]
    omega
  | setRange | setGain | setClockSource =>
    obtain rfl := operands
    refine getLsbD_packFrame_of_keepsLow hop (keepsLow_zero _) (keepsLow_zero _) (keepsLow_zero _) (keepsLow_zero _)
      (keepsLow_field (by decide) _) fun k hk => ?_
    simp [frameBitUsed, opcodeOf]
    omega
  | standby | powerDown | init | start | poll =>
    refine getLsbD_packFrame_of_keepsLow hop (keepsLow_zero _) (keepsLow_zero _) (keepsLow_zero _) (keepsLow_zero _)
      (keepsLow_zero _) fun k hk => ?_
    simp [frameBitUsed, opcodeOf]

/-- Settles O3: frames that agree on the used bits of the first carry one opcode. Where it is reserved, both are refused
alike; else the commands they decode to have one and the same frame, by O2, and so are the same command, by O1. -/
theorem unusedFrameBitsChangeNothing : Obligations.UnusedFrameBitsChangeNothing := by
  intro f g agree
  have sameOp : frameOp f = frameOp g := by
    apply BitVec.eq_of_getLsbD_eq
    intro j hj
    simpa [frameOp, hj] using agree j (by omega) (by simp [frameBitUsed, hj])
  have sameDecode : decode f = decode g := by
    cases hop : reservedOpcode (frameOp f) with
    | true => rw [decode_of_reserved hop, decode_of_reserved (sameOp ▸ hop), sameOp]
    | false =>
      obtain ⟨i, hf⟩ := exists_decode_of_not_reserved hop
      obtain ⟨j, hg⟩ := exists_decode_of_not_reserved (sameOp ▸ hop)
      have sameUsed : f.extractLsb' 0 8 = g.extractLsb' 0 8 := sameOp
      have sameFrame : encode i = encode j := by
        apply BitVec.eq_of_getLsbD_eq
        intro k hk
        rw [encodeOfDecodeKeepsTheUsedBits f i hf k hk, encodeOfDecodeKeepsTheUsedBits g j hg k hk, ← sameUsed]
        cases used : frameBitUsed (f.extractLsb' 0 8) k with
        | true => rw [agree k hk used]
        | false => rfl
      calc decode f
        _ = decode (encode i) := hf.trans (decodeOfEncodeReturnsTheCommand i).symm
        _ = decode (encode j) := by rw [sameFrame]
        _ = decode g := (decodeOfEncodeReturnsTheCommand j).trans hg.symm
  exact ⟨sameDecode, fun s rest => by simp only [step, takeInput, sameDecode]⟩

/-- Settles O4: by running the decoder on the seven frames. -/
theorem specFramesDecode : Obligations.SpecFramesDecode := ⟨rfl, rfl, rfl, rfl, rfl, rfl, rfl⟩

/-! ### The answer to a frame -/

/-- Settles O5: a reserved opcode does not decode, so the step raises IllegalCommand and does nothing else. -/
theorem reservedOpcodesAreRefused : Obligations.ReservedOpcodesAreRefused := by
  intro s f rest hin hop
  have taken : takeInput s = some (.command f, { s with inputs := rest }) := takeInput_of_inputs hin
  have refused : decode f = .error (.reservedOpcode (frameOp f)) := decode_of_reserved hop
  simp only [step, taken, refused, execReserved, runCommand_eq, conclude_raiseIllegal]
  rfl

/-- The response of every command carries the controller state that the command leaves (30_encoding.md R79). -/
theorem effect_response_ctl {i : Instr} {s : State} {events : List BusEvent} {b : Block} {r : Response}
    (he : Effect i s events b r) : r.ctl = b.ctl := by
  cases he with
  | notConfigured start inc clk _ _ mult _ _ =>
    obtain ⟨status, info, rejected, _⟩ := configureRejection_eq start inc clk mult s.blk
    rw [rejected]; rfl
  | pollCounted _ _ hs => exact hs.symm
  | pollRepeated _ _ _ _ _ _ _ hs => exact hs.symm
  | pollAdvanced _ _ _ _ _ _ _ hs => exact hs.symm
  | _ => rfl

/-- Settles O8: a frame that decodes ends with an effect of its command, and any other with the rejection of its
reserved opcode. -/
theorem everyFrameIsAnswered : Obligations.EveryFrameIsAnswered := by
  intro s f rest hin
  cases hop : reservedOpcode (frameOp f) with
  | true => exact ⟨_, _, reservedOpcodesAreRefused s f rest hin hop, rfl, rfl, rfl⟩
  | false =>
    obtain ⟨i, decoded⟩ := exists_decode_of_not_reserved hop
    obtain ⟨events, b, r, he, executed⟩ := exec_effect i { s with inputs := rest }
    exact ⟨_, r, (stepRunsTheDecodedCommand s f rest i hin decoded).trans executed, rfl, effect_response_ctl he, rfl⟩

/-! ### The packed response -/

/-- Settles O6: each field is found by skipping the fields packed below it; the codes are those of the two tables. -/
theorem packedResponseLayout : Obligations.PackedResponseLayout := by
  intro r
  refine ⟨?status, ?ctl, ?sampleValid, ?pointValid, ?info, ?code, ?re, ?im, ?ptIdx, ?ptFreq, ?ptSumRe, ?ptSumIm,
    ?ptCount, rfl, rfl, rfl, rfl, rfl, rfl, rfl, rfl, rfl, rfl, rfl, rfl⟩
  case sampleValid => simp only [packResponse, BitVec.getLsbD_append]; simp
  case pointValid => simp only [packResponse, BitVec.getLsbD_append]; simp
  all_goals
    simp (disch := decide) only [packResponse, extractLsb'_append_eq_of_le, Nat.reduceSub, extractLsb'_append_eq_right,
      BitVec.extractLsb'_eq_self]

end Sys2Proof.Machine
end

section
/-! PROOFS of the encoding family (30_encoding.md), continued: the host's loop RUN_SWEEP (R91, R92), which ends because
every POLL of a sweep uses up one of the polls that are left (42_sweep_controller.md R148). -/

namespace Sys2Proof.Machine

/-! ### The polls that are left -/

/-- The samples a sweep has still to take: those of the points to come and those left of the present point. -/
def samplesLeft (b : Block) : Nat := (b.pNinc.toNat - b.idx.toNat) * b.pRep.toNat + (b.pRep.toNat - b.rc.toNat)

/-- The POLLs a sweep can still go on for: a budget for each sample left, less the empty polls already counted. -/
def pollsLeft (s : State) : Nat := samplesLeft s.blk * s.pollBudget.toNat - s.blk.failPolls.toNat

/-- A sweep that has just begun has at most the polls of R148's bound left. -/
theorem pollsLeft_le_pollBound {s : State} (hidx : s.blk.idx = 0) (hrc : s.blk.rc = 0) : pollsLeft s ≤ pollBound s := by
  have samples : samplesLeft s.blk = (s.blk.pNinc.toNat + 1) * s.blk.pRep.toNat := by
    simp [samplesLeft, hidx, hrc, Nat.add_mul]
  rw [pollsLeft, samples]
  exact Nat.sub_le ..

section Sweeping

variable {s : State} (h : Inv s) (hctl : s.blk.ctl = .sweeping)
include h hctl

theorem samplesLeft_pos : 0 < samplesLeft s.blk := by
  have := (h.countsInRange hctl).1
  unfold samplesLeft
  omega

/-- In Sweeping at least one POLL is left: the empty polls are below the budget of the present sample. -/
theorem pollsLeft_pos : 0 < pollsLeft s := by
  have below := (h.countsInRange hctl).2
  have budget : s.pollBudget.toNat ≤ samplesLeft s.blk * s.pollBudget.toNat :=
    Nat.le_mul_of_pos_left _ (samplesLeft_pos h hctl)
  unfold pollsLeft
  omega

/-- One sample less, with the empty-poll count cleared, leaves fewer polls. -/
theorem pollsLeft_lt_of_sample {t : State} (hbudget : t.pollBudget = s.pollBudget)
    (hsamples : samplesLeft t.blk + 1 = samplesLeft s.blk) (hfail : t.blk.failPolls = 0) :
    pollsLeft t < pollsLeft s := by
  have below := (h.countsInRange hctl).2
  simp only [pollsLeft, hbudget, hfail, ← hsamples, Nat.add_mul]
  omega

/-- Everything a POLL in Sweeping can come to: an error, Complete, or a sweep with fewer polls left. -/
theorem effect_poll_progress {events : List BusEvent} {b : Block} {r : Response} (he : Effect .poll s events b r) :
    r.status ≠ .ok ∨ r.ctl = .complete ∨ (b.ctl = .sweeping ∧ pollsLeft { s with blk := b } < pollsLeft s) := by
  cases he with
  | illegal => exact .inl (nomatch ·)
  | registerReadFailed => exact .inl (nomatch ·)
  | registerWriteFailed => exact .inl (nomatch ·)
  | registerChanged _ _ _ _ _ hi => exact nomatch hi
  | pollReadFailed => exact .inl (nomatch ·)
  | pollTimedOut => exact .inl (nomatch ·)
  | pollModeReadFailed => exact .inl (nomatch ·)
  | pollModeWriteFailed => exact .inl (nomatch ·)
  | pollDisagreed => exact .inl (nomatch ·)
  | pollCompleted => exact .inr (.inl rfl)
  | pollCounted =>
    refine .inr (.inr ⟨hctl, ?_⟩)
    have counted := toNat_add_one_of_lt (h.countsInRange hctl).2
    have left := pollsLeft_pos h hctl
    have sameSamples : samplesLeft { s.blk with failPolls := s.blk.failPolls + 1 } = samplesLeft s.blk := rfl
    simp only [pollsLeft, counted, sameSamples] at left ⊢
    omega
  | pollRepeated =>
    refine .inr (.inr ⟨hctl, pollsLeft_lt_of_sample h hctl rfl ?_ rfl⟩)
    have below := (h.countsInRange hctl).1
    have counted := toNat_add_one_of_lt below
    simp only [samplesLeft, counted]
    omega
  | pollAdvanced _ _ _ _ _ _ _ _ _ _ hm _ hi =>
    refine .inr (.inr ⟨hctl, pollsLeft_lt_of_sample h hctl rfl ?_ rfl⟩)
    have below := (h.countsInRange hctl).1
    obtain ⟨_, index⟩ := h.indexInRange (.inr (.inl hctl))
    have notLast : s.blk.idx.toNat < s.blk.pNinc.toNat :=
      Nat.lt_of_le_of_ne index fun last => hi (BitVec.eq_of_toNat_eq last)
    have points : s.blk.pNinc.toNat - s.blk.idx.toNat = (s.blk.pNinc.toNat - (s.blk.idx.toNat + 1)) + 1 := by omega
    have noSamples : (0 : BitVec 16).toNat = 0 := rfl
    simp only [samplesLeft, toNat_add_one_of_lt notLast, points, Nat.add_mul, noSamples]
    omega

end Sweeping

/-! ### The host's loop -/

/-- The loop is over: the last response is an error, or it shows Complete (30_encoding.md R92). -/
def SweepEnded (s : State) : Prop := ∃ r, s.response = some r ∧ (r.status ≠ .ok ∨ r.ctl = .complete)

/-- The loop goes on: the last response is OK, and the block sweeps. -/
def SweepUnderWay (s : State) : Prop := s.blk.ctl = .sweeping ∧ stillSweeping s = true

theorem pollWhileSweeping_of_ended {s : State} (h : SweepEnded s) (patience : Nat) :
    pollWhileSweeping patience s = s := by
  obtain ⟨r, hr, ended⟩ := h
  have stopped : stillSweeping s = false := by
    rcases ended with error | complete
    · simp [stillSweeping, hr, error]
    · simp [stillSweeping, hr, complete]
  cases patience with
  | zero => rfl
  | succ patience => simp [pollWhileSweeping, stopped]

/-- A command issued by the host ends with an effect of the list. -/
theorem issue_effect (i : Instr) (s : State) :
    ∃ events b r, Effect i s events b r ∧ issue i s = outcomeOf s events b r := by
  obtain ⟨events, b, r, he, executed⟩ := exec_effect i s
  exact ⟨events, b, r, he, by rw [issue, executed]⟩

theorem exec_eq_next_issue (i : Instr) (s : State) : exec i s = .next (issue i s) := by
  obtain ⟨t, executed⟩ := exec_answers_next i s
  rw [issue, executed]

theorem issue_keeps_inv {s : State} (h : Inv s) (i : Instr) : Inv (issue i s) :=
  exec_keeps_inv h (exec_eq_next_issue i s)

/-- Only CONFIGURE changes the bound of R148. -/
theorem issue_pollBound {i : Instr} (s : State)
    (hi : ∀ start inc clk ninc settle mult rep, i ≠ .configure start inc clk ninc settle mult rep) :
    pollBound (issue i s) = pollBound s := by
  have executed := exec_eq_next_issue i s
  obtain ⟨_, _, _, budget⟩ := transactionsUseUpAnswersInOrder i s _ executed
  obtain ⟨_, _, _, _, points, _, _, target, _, _⟩ := onlyConfigureWritesTheProgram i s _ executed hi
  rw [pollBound, pollBound, budget, points, target]

/-- One turn of the loop. -/
theorem issue_poll_progress {s : State} (h : Inv s) (way : SweepUnderWay s) :
    SweepEnded (issue .poll s) ∨ (SweepUnderWay (issue .poll s) ∧ pollsLeft (issue .poll s) < pollsLeft s) := by
  obtain ⟨events, b, r, he, issued⟩ := issue_effect .poll s
  rw [issued]
  have shown : r.ctl = b.ctl := effect_response_ctl he
  rcases effect_poll_progress h way.1 he with error | complete | ⟨sweeping, fewer⟩
  · exact .inl ⟨r, rfl, .inl error⟩
  · exact .inl ⟨r, rfl, .inr complete⟩
  · by_cases ok : r.status = .ok
    · exact .inr ⟨⟨sweeping, by simp [stillSweeping, ok, shown, sweeping]⟩, fewer⟩
    · exact .inl ⟨r, rfl, .inl ok⟩

/-- A host with patience for the polls that are left sees the sweep end. -/
theorem pollWhileSweeping_ends (patience : Nat) {s : State} (h : Inv s) (way : SweepUnderWay s)
    (enough : pollsLeft s ≤ patience) : SweepEnded (pollWhileSweeping patience s) := by
  induction patience generalizing s with
  | zero => exact absurd enough (Nat.not_le.mpr (pollsLeft_pos h way.1))
  | succ patience ih =>
    rw [pollWhileSweeping, if_pos way.2]
    rcases issue_poll_progress h way with ended | ⟨goesOn, fewer⟩
    · rwa [pollWhileSweeping_of_ended ended]
    · exact ih (issue_keeps_inv h .poll) goesOn (by omega)

/-- Either the host stops at an error before the last command, or it issues the last one in a state that meets the
invariant, under the same bound of R148 (30_encoding.md R91). -/
theorem issueAll_reaches_last {s : State} (h : Inv s) (last : Instr) (first : List Instr)
    (hfirst : ∀ i ∈ first, ∀ start inc clk ninc settle mult rep, i ≠ .configure start inc clk ninc settle mult rep) :
    SweepEnded (issueAll (first ++ [last]) s) ∨
      ∃ t, Inv t ∧ pollBound t = pollBound s ∧ issueAll (first ++ [last]) s = issue last t := by
  induction first generalizing s with
  | nil => exact .inr ⟨s, h, rfl, by simp [issueAll]⟩
  | cons i rest ih =>
    rw [List.cons_append, issueAll]
    obtain ⟨events, b, r, he, issued⟩ := issue_effect i s
    have bound := issue_pollBound s (hfirst i List.mem_cons_self)
    split_ifs with ok
    · rcases ih (issue_keeps_inv h i) fun j hj => hfirst j (List.mem_cons_of_mem _ hj) with ended | ⟨t, ht, same, eq⟩
      · exact .inl ended
      · exact .inr ⟨t, ht, same.trans bound, eq⟩
    · refine .inl ⟨r, by rw [issued]; rfl, .inl ?_⟩
      simpa [answeredOk, issued] using ok

/-- START answers an error, or a sweep has begun with the polls of R148's bound left (42_sweep_controller.md R145). -/
theorem issue_start {s : State} (h : Inv s) :
    SweepEnded (issue .start s) ∨ (SweepUnderWay (issue .start s) ∧ pollsLeft (issue .start s) ≤ pollBound s) := by
  obtain ⟨events, b, r, he, issued⟩ := issue_effect .start s
  rw [← issue_pollBound (i := .start) s (by simp), issued]
  cases he with
  | illegal => exact .inl ⟨_, rfl, .inl (nomatch ·)⟩
  | registerReadFailed => exact .inl ⟨_, rfl, .inl (nomatch ·)⟩
  | registerWriteFailed => exact .inl ⟨_, rfl, .inl (nomatch ·)⟩
  | registerChanged _ _ addr change v hi hl =>
    have initialized : s.blk.ctl = .initialized := by revert hl; cases s.blk.ctl <;> simp [legal]
    obtain ⟨idx, rc, _, _⟩ := h.datapathClear.1 (.inr (.inr initialized))
    exact .inr ⟨⟨rfl, rfl⟩,
      pollsLeft_le_pollBound (by simpa [registerCommit] using idx) (by simpa [registerCommit] using rc)⟩

/-- Settles O60: BEGIN_SWEEP stops at an error or begins a sweep, and each POLL of a sweep that does not end it uses up
one of the polls left, of which there are no more than the host's patience. -/
theorem runSweepEndsCompleteOrInError : Obligations.RunSweepEndsCompleteOrInError := by
  intro s patience h enough
  change SweepEnded (pollWhileSweeping patience (issueAll ([.standby, .init] ++ [.start]) s))
  rcases issueAll_reaches_last h .start [.standby, .init] (by simp) with ended | ⟨t, ht, bound, begun⟩
  · rwa [pollWhileSweeping_of_ended ended]
  · rw [begun]
    rcases issue_start ht with ended | ⟨way, left⟩
    · rwa [pollWhileSweeping_of_ended ended]
    · exact pollWhileSweeping_ends patience (issue_keeps_inv ht .start) way (by omega)

end Sys2Proof.Machine
end

section
/-! PROOFS of the encoder and program family (40_encoder_and_program.md): the rounding of the frequency encoder, the codes it
accepts, and the commands ENCODE and CONFIGURE. -/

namespace Sys2Proof.Machine

/-! ### The rounded quotient -/

/-- A quotient rounded half up, read from below: it reaches `n` from `n - ½` on (40_encoder_and_program.md R100). -/
theorem le_encodeQuotient_iff {freq clk : BitVec 32} (hclk : clk ≠ 0) {n : Nat} :
    n ≤ encodeQuotient freq clk ↔ 2 * n * clk.toNat ≤ freq.toNat * 2 ^ 32 + clk.toNat := by
  have positive : 0 < 2 * clk.toNat := Nat.mul_pos two_pos (BitVec.toNat_pos_of_ne_zero hclk)
  rw [encodeQuotient, Nat.le_div_iff_mul_le positive, Nat.mul_left_comm, ← Nat.mul_assoc]

/-- A quotient rounded half up, read from above: it stays at or below `n` short of `n + ½`. -/
theorem encodeQuotient_le_iff {freq clk : BitVec 32} (hclk : clk ≠ 0) {n : Nat} :
    encodeQuotient freq clk ≤ n ↔ freq.toNat * 2 ^ 32 < 2 * n * clk.toNat + clk.toNat := by
  have above := le_encodeQuotient_iff (freq := freq) hclk (n := n + 1)
  have expanded : 2 * (n + 1) * clk.toNat = 2 * n * clk.toNat + 2 * clk.toNat := by ring
  omega

/-- No tie arises: `freq · 2^31 / clk` is never `n - ½`, because the power of two would have to divide a clock that is
smaller (40_encoder_and_program.md R104). -/
theorem no_rounding_tie {freq clk : BitVec 32} (hclk : clk ≠ 0) (n : Nat) :
    2 * n * clk.toNat ≠ freq.toNat * 2 ^ 32 + clk.toNat := by
  intro tie
  have positive := BitVec.toNat_pos_of_ne_zero hclk
  have odd_multiple : 2 ^ 32 ∣ (2 * n - 1) * clk.toNat := by
    refine Dvd.intro_left freq.toNat ?_
    rw [Nat.sub_mul, tie, Nat.one_mul, Nat.add_sub_cancel]
  have n_positive : n ≠ 0 := by
    rintro rfl
    omega
  have coprime : Nat.Coprime (2 ^ 32) (2 * n - 1) :=
    Nat.Coprime.pow_left 32 (Nat.coprime_two_left.mpr ⟨n - 1, by omega⟩)
  exact Nat.not_le.mpr clk.isLt (Nat.le_of_dvd positive (coprime.dvd_of_dvd_mul_left odd_multiple))

theorem encodeQuotient_mono {freq freq' : BitVec 32} (clk : BitVec 32) (h : freq.toNat ≤ freq'.toNat) :
    encodeQuotient freq clk ≤ encodeQuotient freq' clk :=
  Nat.div_le_div_right (Nat.add_le_add_right (Nat.mul_le_mul_right _ h) _)

/-! ### Accepted and rejected pairs -/

/-- The encoder rejects at clock 0 and above the ceiling, and nowhere else (40_encoder_and_program.md R101). -/
theorem encodeFrequency_eq_none_iff {freq clk : BitVec 32} :
    encodeFrequency freq clk = none ↔ clk = 0 ∨ encodeQuotient freq clk > 0xFFFFFF := by
  simp only [encodeFrequency, Config.codeMax]
  split_ifs <;> simp_all

/-- An accepted code is the rounded quotient itself, at its full value. -/
theorem encodeFrequency_eq_some_iff {freq clk : BitVec 32} {code : BitVec 24} :
    encodeFrequency freq clk = some code ↔ clk ≠ 0 ∧ encodeQuotient freq clk = code.toNat := by
  have fits := code.isLt
  unfold encodeFrequency Config.codeMax
  split_ifs with zero above
  · simp [zero]
  · have : encodeQuotient freq clk ≠ code.toNat := by omega
    simp [this]
  · have narrowed := Nat.mod_eq_of_lt (show encodeQuotient freq clk < 2 ^ 24 by omega)
    rw [Option.some_inj, ← BitVec.toNat_inj, BitVec.toNat_ofNat, narrowed, and_iff_right zero]

/-- Settles O13: the quotient is the code when it lies between the two half-way points, the lower of which no pair
meets. -/
theorem encodeGivesTheStrictlyNearestCode : Obligations.EncodeGivesTheStrictlyNearestCode := by
  intro freq clk code
  rw [encodeFrequency_eq_some_iff]
  refine and_congr_right fun hclk => ?_
  have no_tie := no_rounding_tie (freq := freq) hclk code.toNat
  rw [le_antisymm_iff, encodeQuotient_le_iff hclk, le_encodeQuotient_iff hclk, and_comm, no_tie.le_iff_lt]

/-- Settles O14: a quotient above the ceiling is one that reaches the ceiling's upper half-way point. -/
theorem encodeRejectsExactlyBeyondTheCeiling : Obligations.EncodeRejectsExactlyBeyondTheCeiling := by
  intro freq clk
  refine ⟨encodeFrequency_eq_none_iff, ?_, fun low high => ?_⟩
  · rw [encodeFrequency_eq_none_iff]
    refine or_congr_right' fun hclk => ?_
    have ceiling := encodeQuotient_le_iff (freq := freq) hclk (n := 0xFFFFFF)
    omega
  · have hclk : clk ≠ 0 := by
      rintro rfl
      exact absurd high (by simp)
    have reached := le_encodeQuotient_iff (freq := freq) hclk (n := 0xFFFFFF)
    have notPassed := encodeQuotient_le_iff (freq := freq) hclk (n := 0xFFFFFF)
    exact encodeFrequency_eq_some_iff.mpr ⟨hclk, show encodeQuotient freq clk = 0xFFFFFF by omega⟩

/-- Settles O15: the two half-way points of the nearest code, each divided by `2^32`. -/
theorem decodedCodeIsWithinHalfAStep : Obligations.DecodedCodeIsWithinHalfAStep := by
  intro freq clk code accepted
  obtain ⟨_, low, high⟩ := (encodeGivesTheStrictlyNearestCode freq clk code).mp accepted
  have low_rat : 2 * (code.toNat : Rat) * clk.toNat < freq.toNat * 2 ^ 32 + clk.toNat := by exact_mod_cast low
  have high_rat : (freq.toNat : Rat) * 2 ^ 32 < 2 * code.toNat * clk.toNat + clk.toNat := by exact_mod_cast high
  rw [decodeFrequency, Nat.cast_mul, abs_sub_le_iff]
  constructor <;> linarith

/-- A frequency at or below an accepted one is accepted, with a code not above (40_encoder_and_program.md R105). -/
theorem encodeFrequency_of_le {freq freq' clk : BitVec 32} {code' : BitVec 24} (lower : freq.toNat ≤ freq'.toNat)
    (accepted : encodeFrequency freq' clk = some code') :
    ∃ code, encodeFrequency freq clk = some code ∧ code.toNat ≤ code'.toNat := by
  obtain ⟨hclk, quotient'⟩ := encodeFrequency_eq_some_iff.mp accepted
  have below : encodeQuotient freq clk ≤ code'.toNat := quotient' ▸ encodeQuotient_mono clk lower
  cases answer : encodeFrequency freq clk with
  | none =>
    have above := (encodeFrequency_eq_none_iff.mp answer).resolve_left hclk
    have fits := code'.isLt
    omega
  | some code =>
    obtain ⟨_, quotient⟩ := encodeFrequency_eq_some_iff.mp answer
    exact ⟨code, rfl, quotient ▸ below⟩

theorem encodeFrequency_zero {clk : BitVec 32} (hclk : clk ≠ 0) : encodeFrequency 0 clk = some 0 := by
  have atMost : encodeQuotient 0 clk ≤ 0 :=
    (encodeQuotient_le_iff hclk).mpr (by simpa using BitVec.toNat_pos_of_ne_zero hclk)
  exact encodeFrequency_eq_some_iff.mpr ⟨hclk, Nat.le_zero.mp atMost⟩

/-- At the clock of 16,776,000 the accepted frequencies end at 131,062 (40_encoder_and_program.md R105). -/
theorem encodeFrequency_isSome_iff_le (freq : BitVec 32) :
    (encodeFrequency freq 16776000).isSome = true ↔ freq.toNat ≤ 131062 := by
  obtain ⟨_, rejected, _⟩ := encodeRejectsExactlyBeyondTheCeiling freq 16776000
  have clock : (16776000 : BitVec 32).toNat = 16776000 := rfl
  have clock_ne_zero : (16776000 : BitVec 32) ≠ 0 := by decide
  rw [Option.isSome_iff_ne_none, ne_eq, rejected, or_iff_right clock_ne_zero, clock]
  omega

/-- Settles O16: a lower frequency has a lower quotient, frequency 0 the quotient 0; the end of the interval is the bound
of R101 at that clock. -/
theorem encodeIsMonotone : Obligations.EncodeIsMonotone :=
  ⟨fun _ _ _ _ => encodeFrequency_of_le, fun _ => encodeFrequency_zero, encodeFrequency_isSome_iff_le, by decide⟩

/-! ### ENCODE -/

/-- ENCODE answers by the quotient and the clock alone, and does nothing else (40_encoder_and_program.md R106). -/
theorem exec_encode (freq clk : BitVec 32) (s : State) :
    exec (.encode freq clk) s = .next (outcomeOf s [] s.blk
      (if clk = 0 ∨ encodeQuotient freq clk > 0xFFFFFF then rejection .frequencyOutOfRange 0 s.blk
      else { status := .ok, ctl := s.blk.ctl, code := BitVec.ofNat 24 (encodeQuotient freq clk) })) := by
  obtain ⟨events, b, r, he, executed⟩ := exec_effect (.encode freq clk) s
  rw [executed]
  cases he with
  | illegal _ _ illegal => simp [legal] at illegal
  | encoded _ _ _ code accepted =>
    have inRange : ¬ (clk = 0 ∨ encodeQuotient freq clk > 0xFFFFFF) := by
      rw [← encodeFrequency_eq_none_iff, accepted]
      exact Option.some_ne_none code
    obtain ⟨_, quotient⟩ := encodeFrequency_eq_some_iff.mp accepted
    rw [if_neg inRange, quotient, BitVec.ofNat_toNat, BitVec.setWidth_eq]
  | notEncoded _ _ _ rejected =>
    rw [if_pos (encodeFrequency_eq_none_iff.mp rejected)]
  | registerReadFailed _ _ _ _ hi => exact nomatch hi
  | registerWriteFailed _ _ _ _ _ hi => exact nomatch hi
  | registerChanged _ _ _ _ _ hi => exact nomatch hi

/-- Settles O17: the outcome of ENCODE, with the quotient written out. -/
theorem encodeCommandAnswersTheRoundedCode : Obligations.EncodeCommandAnswersTheRoundedCode := exec_encode

/-! ### CONFIGURE -/

/-- A run of writes that all succeed has no failed write in it. -/
theorem not_writeFails_of_writesAll {s : State} {done later : List (Addr × Byte)} {x : Addr × Byte}
    (h : writesAll s (done ++ x :: later)) : ¬ writeFails s done.length x.1 x.2 :=
  h done.length x (by simp)

/-- Everything CONFIGURE can do where it is legal: report a failed check, load the program, or stop at a failed write
(40_encoder_and_program.md R107). -/
theorem exec_configure_cases (s : State) (start inc clk : BitVec 32) (ninc : BitVec 9) (settle : BitVec 10)
    (mult : BitVec 2) (rep : BitVec 16) (hctl : s.blk.ctl = .idle ∨ s.blk.ctl = .standby) :
    ((encodeFrequency start clk = none ∨ encodeFrequency inc clk = none ∨ mult = 0b10 ∨ rep = 0) ∧
      exec (.configure start inc clk ninc settle mult rep) s =
        .next (outcomeOf s [] s.blk (configureRejection start inc clk mult s.blk))) ∨
    (∃ startCode incCode, encodeFrequency start clk = some startCode ∧ encodeFrequency inc clk = some incCode ∧
      mult ≠ 0b10 ∧ rep ≠ 0 ∧
      ((writesAll s (sweepProgramBytes startCode incCode ninc settle mult) ∧
        exec (.configure start inc clk ninc settle mult rep) s =
          .next (outcomeOf s (writeEvents (sweepProgramBytes startCode incCode ninc settle mult))
            (loadProgram start inc clk ninc settle mult rep startCode incCode s.blk) (okResponse s.blk.ctl))) ∨
      ∃ done x later, sweepProgramBytes startCode incCode ninc settle mult = done ++ x :: later ∧ writesAll s done ∧
        writeFails s done.length x.1 x.2 ∧
        exec (.configure start inc clk ninc settle mult rep) s =
          .next (outcomeOf s (writeEvents done ++ [.write x.1 x.2 false])
            (faultEntry true .bus (busInfo true x.1) s.blk) (faultResponse .ioError (busInfo true x.1))))) := by
  obtain ⟨events, b, r, he, executed⟩ := exec_effect (.configure start inc clk ninc settle mult rep) s
  rw [executed]
  cases he with
  | illegal _ _ illegal => rcases hctl with hctl | hctl <;> simp [legal, hctl] at illegal
  | notConfigured _ _ _ _ _ _ _ _ _ failed => exact .inl ⟨failed, rfl⟩
  | configured _ _ _ _ _ _ _ _ startCode incCode _ hstart hinc hmult hrep written =>
    exact .inr ⟨startCode, incCode, hstart, hinc, hmult, hrep, .inl ⟨written, rfl⟩⟩
  | configureFailed _ _ _ _ _ _ _ _ startCode incCode done later x _ hstart hinc hmult hrep bytes written failed =>
    exact .inr ⟨startCode, incCode, hstart, hinc, hmult, hrep, .inr ⟨done, x, later, bytes, written, failed, rfl⟩⟩
  | registerReadFailed _ _ _ _ hi => exact nomatch hi
  | registerWriteFailed _ _ _ _ _ hi => exact nomatch hi
  | registerChanged _ _ _ _ _ hi => exact nomatch hi

/-- A program that passes the four checks fails none of them. -/
theorem no_failed_check {start inc clk : BitVec 32} {mult : BitVec 2} {rep : BitVec 16} {startCode incCode : BitVec 24}
    (hstart : encodeFrequency start clk = some startCode) (hinc : encodeFrequency inc clk = some incCode)
    (hmult : mult ≠ 0b10) (hrep : rep ≠ 0) :
    ¬ (encodeFrequency start clk = none ∨ encodeFrequency inc clk = none ∨ mult = 0b10 ∨ rep = 0) := by
  rintro (rejected | rejected | bad | bad)
  · exact nomatch hstart.symm.trans rejected
  · exact nomatch hinc.symm.trans rejected
  · exact hmult bad
  · exact hrep bad

/-- Settles O18: with every check passed and every write through, loading the program is the one case left. -/
theorem configureLoadsTheProgram : Obligations.ConfigureLoadsTheProgram := by
  intro s start inc clk ninc settle mult rep startCode incCode hctl hstart hinc hmult hrep written
  rcases exec_configure_cases s start inc clk ninc settle mult rep hctl with
    ⟨failed, _⟩ | ⟨startCode', incCode', hstart', hinc', _, _, outcome⟩
  · exact absurd failed (no_failed_check hstart hinc hmult hrep)
  · obtain rfl : startCode = startCode' := Option.some_inj.mp (hstart.symm.trans hstart')
    obtain rfl : incCode = incCode' := Option.some_inj.mp (hinc.symm.trans hinc')
    rcases outcome with ⟨_, executed⟩ | ⟨done, x, later, bytes, _, failed, _⟩
    · exact executed
    · exact absurd failed (not_writeFails_of_writesAll (bytes ▸ written))

/-- Settles O19: a failed check leaves the rejection alone of CONFIGURE's outcomes. -/
theorem configureReportsTheFirstFailedCheck : Obligations.ConfigureReportsTheFirstFailedCheck := by
  intro s start inc clk ninc settle mult rep hctl check
  rcases exec_configure_cases s start inc clk ninc settle mult rep hctl with
    ⟨_, executed⟩ | ⟨startCode, incCode, hstart, hinc, hmult, hrep, _⟩
  · exact executed
  · exact absurd check (no_failed_check hstart hinc hmult hrep)

end Sys2Proof.Machine
end

section
/-! PROOFS of the control-register family (41_control_register.md): the byte that a command writes back for the byte it read,
which bits of it are new, and what a control-register command leaves when both its transactions succeed. -/

namespace Sys2Proof.Machine

/-! ### The read-modify-writes of a trace -/

/-- The byte `w` that command `i` writes to `addr` right after it read `v` there: a control-register command writes its
change of `v`, and POLL writes CR1 with Repeat or Increment (41_control_register.md R121, R124 to R126). -/
inductive WritesBack : Instr → Addr → Byte → Byte → Prop
  | register {i : Instr} {addr : Addr} {change : Byte → Byte} (v : Byte) (hi : registerChange i = some (addr, change)) :
      WritesBack i addr v (change v)
  | pollMode {m : Mode} (v : Byte) (hm : m = .repeat ∨ m = .increment) : WritesBack .poll 0x80 v (modeByte m v)

/-- Where reads and one read-modify-write make up a trace, no other read with a write behind it stands in it. -/
theorem readModifyWrite_unique {xs : List (Addr × Byte)} {before after : List BusEvent} {addr addr' : Addr}
    {v v' w w' : Byte} {ok ok' : Bool}
    (h : readEvents xs ++ [.read addr' (some v'), .write addr' w' ok'] =
      before ++ .read addr (some v) :: .write addr w ok :: after) : addr' = addr ∧ v' = v ∧ w' = w := by
  rcases List.eq_nil_or_concat after with rfl | ⟨inner, last, rfl⟩
  · obtain ⟨_, pair⟩ := List.append_inj' h rfl
    simp only [List.cons.injEq, BusEvent.read.injEq, BusEvent.write.injEq, Option.some.injEq] at pair
    obtain ⟨⟨sameAddr, sameRead⟩, ⟨_, sameWrite, _⟩, _⟩ := pair
    exact ⟨sameAddr, sameRead, sameWrite⟩
  · have readsAlone : readEvents xs ++ [.read addr' (some v')] =
        before ++ .read addr (some v) :: .write addr w ok :: inner := by
      refine (List.append_inj' (t₁ := [.write addr' w' ok']) (t₂ := [last]) ?_ rfl).1
      simpa using h
    have written : .write addr w ok ∈ readEvents xs ++ [.read addr' (some v')] := by simp [readsAlone]
    simp [readEvents] at written

/-- A write right after a read of the same register writes back what the command makes of the byte read: the other effects
issue no read or no write at all. -/
theorem effect_writesBack {i : Instr} {s : State} {events before after : List BusEvent} {b : Block} {r : Response}
    {addr : Addr} {v w : Byte} {ok : Bool} (he : Effect i s events b r)
    (h : events = before ++ .read addr (some v) :: .write addr w ok :: after) : WritesBack i addr v w := by
  have read : .read addr (some v) ∈ events := by simp [h]
  have written : .write addr w ok ∈ events := by simp [h]
  cases he with
  | illegal | encoded | notEncoded | notConfigured => exact nomatch read
  | configured | configureFailed => simp [writeEvents] at read
  | registerReadFailed | pollCounted | pollTimedOut => simp at written
  | pollReadFailed | pollModeReadFailed | pollCompleted | pollDisagreed => simp [readEvents] at written
  | registerWriteFailed _ _ _ _ _ hi | registerChanged _ _ _ _ _ hi =>
    obtain ⟨rfl, rfl, rfl⟩ := readModifyWrite_unique (xs := []) h
    exact .register _ hi
  | pollModeWriteFailed _ _ _ _ _ _ _ m _ _ _ decision =>
    obtain ⟨rfl, rfl, rfl⟩ := readModifyWrite_unique h
    exact .pollMode _ (decision.imp And.right fun ⟨_, _, _, increment⟩ => increment)
  | pollRepeated =>
    obtain ⟨rfl, rfl, rfl⟩ := readModifyWrite_unique h
    exact .pollMode _ (.inl rfl)
  | pollAdvanced =>
    obtain ⟨rfl, rfl, rfl⟩ := readModifyWrite_unique h
    exact .pollMode _ (.inr rfl)

/-- The same for the trace of a command's next state. -/
theorem exec_writesBack {i : Instr} {s t : State} {before after : List BusEvent} {addr : Addr} {v w : Byte} {ok : Bool}
    (hexec : exec i s = .next t) (h : t.trace = before ++ .read addr (some v) :: .write addr w ok :: after) :
    WritesBack i addr v w := by
  obtain ⟨events, b, r, he, rfl⟩ := effect_of_exec hexec
  exact effect_writesBack he h

/-- A control-register command writes back its own change of the byte read. -/
theorem WritesBack.eq_change {i : Instr} {addr : Addr} {change : Byte → Byte} {v w : Byte} (h : WritesBack i addr v w)
    (hi : registerChange i = some (addr, change)) : w = change v := by
  cases h with
  | register _ hi' => rw [hi] at hi'; cases hi'; rfl
  | pollMode => exact nomatch hi

/-! ### The bit-field commands -/

/-- A bit outside the replaced field, which the mask keeps, is that of the byte read. -/
theorem getLsbD_replacedField {p n j : Nat} {mask : Byte} (code : BitVec n) (v : Byte) (kept : mask.getLsbD j = true)
    (outside : j < p ∨ p + n ≤ j) : ((v &&& mask) ||| (code.setWidth 8 <<< p)).getLsbD j = v.getLsbD j := by
  have notPlaced : (code.setWidth 8 <<< p).getLsbD j = false := by
    rcases outside with below | above
    · simp [below]
    · have beyond : n ≤ j - p := by omega
      simp [BitVec.getLsbD_of_ge code _ beyond]
  rw [BitVec.getLsbD_or, BitVec.getLsbD_and, kept, notPlaced, Bool.and_true, Bool.or_false]

/-- SET_RANGE keeps every bit but 2..1 (41_control_register.md R127). -/
theorem getLsbD_rangeByte (code : BitVec 2) (v : Byte) : ∀ k < 8, k ≠ 1 → k ≠ 2 →
    (rangeByte code v).getLsbD k = v.getLsbD k := by
  intro k hk h1 h2
  have kept : ∀ k < 8, k ≠ 1 → k ≠ 2 → (0xF9 : Byte).getLsbD k = true := by decide
  exact getLsbD_replacedField code v (kept k hk h1 h2) (by omega)

/-- SET_GAIN keeps every bit but 0 (41_control_register.md R127). -/
theorem getLsbD_gainByte (code : BitVec 1) (v : Byte) : ∀ k < 8, k ≠ 0 →
    (gainByte code v).getLsbD k = v.getLsbD k := by
  intro k hk h0
  have kept : ∀ k < 8, k ≠ 0 → (0xFE : Byte).getLsbD k = true := by decide
  have bit := getLsbD_replacedField (p := 0) code v (kept k hk h0) (by omega)
  rwa [BitVec.shiftLeft_zero] at bit

/-- SET_CLOCK_SOURCE keeps every bit but CLK_SRC_BIT (41_control_register.md R127). -/
theorem getLsbD_clockByte (src : BitVec 1) (v : Byte) : ∀ k < 8, k ≠ 3 →
    (clockByte src v).getLsbD k = v.getLsbD k := by
  intro k hk h3
  have kept : ∀ k < 8, k ≠ 3 → (0xF7 : Byte).getLsbD k = true := by decide
  exact getLsbD_replacedField (p := 3) src v (kept k hk h3) (by omega)

/-- Settles O24: the byte written is the command's change of the byte read, whose field holds the operand and whose other
bits are kept. -/
theorem fieldCommandsChangeOnlyTheirBits : Obligations.FieldCommandsChangeOnlyTheirBits := by
  refine ⟨fun s t code v w ok hexec htrace => ?_, fun s t code v w ok hexec htrace => ?_,
    fun s t src v w ok hexec htrace => ?_⟩
  · obtain rfl : w = rangeByte code v := (exec_writesBack (before := []) hexec htrace).eq_change rfl
    exact ⟨extractLsb'_rangeByte code v, getLsbD_rangeByte code v⟩
  · obtain rfl : w = gainByte code v := (exec_writesBack (before := []) hexec htrace).eq_change rfl
    exact ⟨extractLsb'_gainByte code v, getLsbD_gainByte code v⟩
  · obtain rfl : w = clockByte src v := (exec_writesBack (before := []) hexec htrace).eq_change rfl
    exact ⟨extractLsb'_clockByte src v, getLsbD_clockByte src v⟩

/-! ### The mode writes -/

/-- A mode write keeps the low three bits of the byte read: no pattern reaches into them (41_control_register.md R122). -/
theorem modeByte_and_low (m : Mode) (v : Byte) : modeByte m v &&& 0x07 = v &&& 0x07 := by
  have pattern : modePattern m &&& 0x07 = 0#8 := by cases m <;> rfl
  rw [modeByte, BitVec.and_or_distrib_right, pattern, BitVec.and_assoc, BitVec.and_self, BitVec.or_zero]

/-- A mode write has the mode's pattern in bits 7..3 (41_control_register.md R120, R123). -/
theorem modeByte_and_high (m : Mode) (v : Byte) : modeByte m v &&& 0xF8 = modePattern m := by
  have pattern : modePattern m &&& 0xF8 = modePattern m := by cases m <;> rfl
  have cleared : (0x07 : Byte) &&& 0xF8 = 0#8 := rfl
  rw [modeByte, BitVec.and_or_distrib_right, pattern, BitVec.and_assoc, cleared, BitVec.and_zero, BitVec.zero_or]

/-- Every write back to CR1 but those of the two bit-field commands is a mode write, with a mode the command issues. -/
theorem WritesBack.mode_of_cr1 {i : Instr} {v w : Byte} (h : WritesBack i 0x80 v w) (notRange : ∀ code, i ≠ .setRange code)
    (notGain : ∀ code, i ≠ .setGain code) : ∃ m, w = modeByte m v ∧ modePattern m ∈ modePatternsOf i := by
  cases h with
  | pollMode v hm =>
    rcases hm with rfl | rfl
    · exact ⟨.repeat, rfl, by decide⟩
    · exact ⟨.increment, rfl, by decide⟩
  | register v hi =>
    cases i with
    | setRange code => exact absurd rfl (notRange code)
    | setGain code => exact absurd rfl (notGain code)
    | setClockSource => simp [registerChange] at hi
    | encode | configure | poll => exact nomatch hi
    | standby => cases hi; exact ⟨.standby, rfl, by decide⟩
    | powerDown => cases hi; exact ⟨.powerDown, rfl, by decide⟩
    | init => cases hi; exact ⟨.init, rfl, by decide⟩
    | start => cases hi; exact ⟨.start, rfl, by decide⟩

/-- Settles O25: every such write is a mode write, and a mode write keeps the low bits and sets the pattern. -/
theorem modeWritesKeepTheLowThreeBits : Obligations.ModeWritesKeepTheLowThreeBits := by
  intro i s t before after v w ok hexec notRange notGain htrace
  obtain ⟨m, rfl, issued⟩ := (exec_writesBack hexec htrace).mode_of_cr1 notRange notGain
  rw [modeByte_and_low, modeByte_and_high]
  exact ⟨rfl, issued⟩

/-! ### A control-register command from start to end -/

/-- Everything a legal control-register command can do: fail at the read, fail at the write, or change the register
(41_control_register.md R121). -/
theorem exec_register_cases {i : Instr} {s : State} {addr : Addr} {change : Byte → Byte}
    (hi : registerChange i = some (addr, change)) (hl : legal i s.blk.ctl s.blk.configured = true) :
    (readFails s 0 addr ∧ exec i s = .next (outcomeOf s [.read addr none]
      (faulted .bus (busInfo false addr) s.blk) (faultResponse .ioError (busInfo false addr)))) ∨
    (∃ v, reads s 0 addr v ∧ writeFails s 1 addr (change v) ∧
      exec i s = .next (outcomeOf s [.read addr (some v), .write addr (change v) false]
        (faulted .bus (busInfo true addr) (setShadow s.blk addr none)) (faultResponse .ioError (busInfo true addr)))) ∨
    (∃ v, reads s 0 addr v ∧ writes s 1 addr (change v) ∧
      exec i s = .next (outcomeOf s [.read addr (some v), .write addr (change v) true]
        (registerCommit i (setShadow s.blk addr (some (change v))))
        (okResponse (registerCommit i (setShadow s.blk addr (some (change v)))).ctl))) := by
  obtain ⟨events, b, r, he, executed⟩ := exec_effect i s
  rw [executed]
  cases he with
  | illegal _ _ illegal => rw [hl] at illegal; exact nomatch illegal
  | registerReadFailed _ _ _ _ hi' _ hr => rw [hi] at hi'; cases hi'; exact .inl ⟨hr, rfl⟩
  | registerWriteFailed _ _ _ _ v hi' _ hr hw => rw [hi] at hi'; cases hi'; exact .inr (.inl ⟨v, hr, hw, rfl⟩)
  | registerChanged _ _ _ _ v hi' _ hr hw => rw [hi] at hi'; cases hi'; exact .inr (.inr ⟨v, hr, hw, rfl⟩)
  | _ => exact nomatch hi

/-- One transaction reads one byte. -/
theorem reads_unique {s : State} {k : Nat} {addr : Addr} {v v' : Byte} (h : reads s k addr v) (h' : reads s k addr v') :
    v = v' :=
  BusAnswer.ack.inj (h.symm.trans h')

/-- A legal control-register command whose two transactions succeed commits the byte it wrote. -/
theorem exec_register_of_writes {i : Instr} {s : State} {addr : Addr} {change : Byte → Byte} {v : Byte}
    (hi : registerChange i = some (addr, change)) (hl : legal i s.blk.ctl s.blk.configured = true)
    (hr : reads s 0 addr v) (hw : writes s 1 addr (change v)) :
    exec i s = .next (outcomeOf s [.read addr (some v), .write addr (change v) true]
      (registerCommit i (setShadow s.blk addr (some (change v))))
      (okResponse (registerCommit i (setShadow s.blk addr (some (change v)))).ctl)) := by
  rcases exec_register_cases hi hl with ⟨readFailed, _⟩ | ⟨v', hr', writeFailed, _⟩ | ⟨v', hr', _, executed⟩
  · exact nomatch hr.symm.trans readFailed
  · obtain rfl := reads_unique hr hr'
    exact absurd writeFailed hw
  · obtain rfl := reads_unique hr hr'
    exact executed

/-- A command that the table allows in Idle and in Standby is legal in a block that is in one of them
(42_sweep_controller.md R141). -/
theorem legal_of_idle_or_standby {i : Instr} {b : Block} (hctl : b.ctl = .idle ∨ b.ctl = .standby)
    (inIdle : legal i .idle b.configured = true) (inStandby : legal i .standby b.configured = true) :
    legal i b.ctl b.configured = true := by
  rcases hctl with hctl | hctl
  · rw [hctl, inIdle]
  · rw [hctl, inStandby]

/-- Settles O21: the read-modify-write of CR1 with the range code, both transactions through. -/
theorem setRangeWritesTheRangeCode : Obligations.SetRangeWritesTheRangeCode := fun _ code _ hctl hr hw =>
  exec_register_of_writes (i := .setRange code) rfl (legal_of_idle_or_standby hctl rfl rfl) hr hw

/-- Settles O22: the read-modify-write of CR1 with the gain code, both transactions through. -/
theorem setGainWritesTheGainCode : Obligations.SetGainWritesTheGainCode := fun _ code _ hctl hr hw =>
  exec_register_of_writes (i := .setGain code) rfl (legal_of_idle_or_standby hctl rfl rfl) hr hw

/-- Settles O23: the read-modify-write of CR2 with the source bit, both transactions through. -/
theorem setClockSourceWritesTheSource : Obligations.SetClockSourceWritesTheSource := fun _ src _ hctl hr hw =>
  exec_register_of_writes (i := .setClockSource src) rfl (legal_of_idle_or_standby hctl rfl rfl) hr hw

end Sys2Proof.Machine
end

section
/-! PROOFS of the sweep-controller family (42_sweep_controller.md): what the four mode-transition commands leave when both
their transactions succeed (R142 to R145), the legality table and the transition table (R140, R141), and the second of two
STANDBYs (R149). -/

namespace Sys2Proof.Machine

/-! ### The mode-transition commands -/

/-- Settles O29: STANDBY is legal in every state, and both its transactions are through. -/
theorem standbyEntersStandby : Obligations.StandbyEntersStandby := fun _ _ hr hw =>
  exec_register_of_writes (i := .standby) rfl rfl hr hw

theorem legal_powerDown_iff {ctl : Ctl} {configured : Bool} : legal .powerDown ctl configured = true ↔ ctl ≠ .faulted := by
  cases ctl <;> simp [legal]

theorem legal_init_iff {ctl : Ctl} {configured : Bool} :
    legal .init ctl configured = true ↔ ctl = .standby ∧ configured = true := by
  cases ctl <;> simp [legal]

theorem legal_start_iff {ctl : Ctl} {configured : Bool} : legal .start ctl configured = true ↔ ctl = .initialized := by
  cases ctl <;> simp [legal]

/-- Settles O30: POWER_DOWN is legal outside Faulted, and both its transactions are through. -/
theorem powerDownEntersIdle : Obligations.PowerDownEntersIdle := fun _ _ hctl hr hw =>
  exec_register_of_writes (i := .powerDown) rfl (legal_powerDown_iff.mpr hctl) hr hw

/-- Settles O31: INIT is legal in Standby with a program, and both its transactions are through. -/
theorem initEntersInitialized : Obligations.InitEntersInitialized := fun _ _ hctl hconf hr hw =>
  exec_register_of_writes (i := .init) rfl (legal_init_iff.mpr ⟨hctl, hconf⟩) hr hw

/-- Settles O32: START is legal in Initialized, and both its transactions are through. -/
theorem startEntersSweeping : Obligations.StartEntersSweeping := fun _ _ hctl hr hw =>
  exec_register_of_writes (i := .start) rfl (legal_start_iff.mpr hctl) hr hw

/-! ### The legality table -/

/-- An effect is the rejection as illegal, and the table marks the command so; or the table marks it legal, and the answer
is another one (42_sweep_controller.md R141). -/
theorem effect_legality {i : Instr} {s : State} {events : List BusEvent} {b : Block} {r : Response}
    (he : Effect i s events b r) :
    (legal i s.blk.ctl s.blk.configured = false ∧ events = [] ∧ b = s.blk ∧
      r = rejection .illegalCommand (illegalInfo s.blk.ctl (opcodeOf i)) s.blk) ∨
    (legal i s.blk.ctl s.blk.configured = true ∧ r.status ≠ .illegalCommand) := by
  cases he with
  | illegal _ _ hl => exact .inl ⟨hl, rfl, rfl, rfl⟩
  | encoded | notEncoded => exact .inr ⟨rfl, nofun⟩
  | notConfigured start inc clk _ _ mult _ _ hs =>
    obtain ⟨status, info, rejected, rfl | rfl⟩ := configureRejection_eq start inc clk mult s.blk <;>
      exact .inr ⟨legal_of_idle_or_standby hs rfl rfl, by rw [rejected]; nofun⟩
  | configured _ _ _ _ _ _ _ _ _ _ hs | configureFailed _ _ _ _ _ _ _ _ _ _ _ _ _ hs =>
    exact .inr ⟨legal_of_idle_or_standby hs rfl rfl, nofun⟩
  | registerReadFailed _ _ _ _ _ hl | registerWriteFailed _ _ _ _ _ _ hl | registerChanged _ _ _ _ _ _ hl =>
    exact .inr ⟨hl, nofun⟩
  | pollReadFailed _ _ _ _ hs | pollCounted _ _ hs | pollTimedOut _ _ hs | pollModeReadFailed _ _ _ _ _ _ _ hs
  | pollModeWriteFailed _ _ _ _ _ _ _ _ hs | pollRepeated _ _ _ _ _ _ _ hs | pollAdvanced _ _ _ _ _ _ _ hs
  | pollCompleted _ _ _ _ _ _ hs | pollDisagreed _ _ _ _ _ _ hs =>
    exact .inr ⟨by rw [hs]; rfl, nofun⟩

/-- Settles O33: by the effect that takes place, which rejects the command as illegal where the table says so and nowhere
else. -/
theorem legalityTableDecidesIllegalCommand : Obligations.LegalityTableDecidesIllegalCommand := by
  intro i s
  obtain ⟨events, b, r, he, executed⟩ := exec_effect i s
  rcases effect_legality he with ⟨illegal, rfl, rfl, rfl⟩ | ⟨isLegal, otherwise⟩
  · have opcode : (encode i).extractLsb' 0 8 = opcodeOf i := frameOp_encode i
    refine ⟨fun _ => ?_, fun isLegal => absurd (illegal.symm.trans isLegal) Bool.false_ne_true⟩
    rw [executed, opcode]
    rfl
  · refine ⟨fun illegal => absurd (illegal.symm.trans isLegal) Bool.false_ne_true, fun _ t r' hexec hr' => ?_⟩
    obtain rfl := Host.Outcome.next.inj (executed.symm.trans hexec)
    obtain rfl := Option.some.inj hr'
    exact otherwise

/-! ### The transition table -/

/-- A control-register command that goes through changes the controller state only as one of the four mode-transition
commands, by its row of the table (42_sweep_controller.md R140). -/
theorem registerCommit_ctl_cases {i : Instr} {b : Block} (hl : legal i b.ctl b.configured = true)
    (changed : (registerCommit i b).ctl ≠ b.ctl) :
    (i = .standby ∧ (registerCommit i b).ctl = .standby) ∨
    (i = .powerDown ∧ b.ctl ≠ .faulted ∧ (registerCommit i b).ctl = .idle) ∨
    (i = .init ∧ b.ctl = .standby ∧ b.configured = true ∧ (registerCommit i b).ctl = .initialized) ∨
    (i = .start ∧ b.ctl = .initialized ∧ (registerCommit i b).ctl = .sweeping ∧ (registerCommit i b).sub = .started) := by
  cases i with
  | standby => exact .inl ⟨rfl, rfl⟩
  | powerDown => exact .inr (.inl ⟨rfl, legal_powerDown_iff.mp hl, rfl⟩)
  | init =>
    obtain ⟨standby, loaded⟩ := legal_init_iff.mp hl
    exact .inr (.inr (.inl ⟨rfl, standby, loaded, rfl⟩))
  | start => exact .inr (.inr (.inr ⟨rfl, legal_start_iff.mp hl, rfl, rfl⟩))
  | _ => exact absurd rfl changed

/-- Settles O36: of the effects, those that keep `ctl` are excluded; a control-register command that goes through and the
completing POLL have their rows of the table, and the others are faults. -/
theorem controllerChangesByTheTransitionTable : Obligations.ControllerChangesByTheTransitionTable := by
  intro i s t hexec changed
  obtain ⟨events, b, r, he, rfl⟩ := effect_of_exec hexec
  cases he with
  | illegal | encoded | notEncoded | notConfigured | configured | pollCounted | pollRepeated | pollAdvanced =>
    exact absurd rfl changed
  | registerChanged _ _ addr change v _ hl =>
    rcases registerCommit_ctl_cases (b := setShadow s.blk addr (some (change v))) (by simpa using hl)
        (by simpa using changed) with standby | powerDown | init | start
    · exact .inl standby
    · exact .inr (.inl (by simpa using powerDown))
    · exact .inr (.inr (.inl (by simpa using init)))
    · exact .inr (.inr (.inr (.inl (by simpa using start))))
  | pollCompleted _ _ _ _ _ _ hs _ _ hm _ hi =>
    exact .inr (.inr (.inr (.inr (.inl ⟨rfl, hs, rfl, hi, hm⟩))))
  | pollTimedOut =>
    exact .inr (.inr (.inr (.inr (.inr ⟨rfl, by simp, _, rfl, .inr ⟨rfl, rfl⟩⟩))))
  | configureFailed | registerReadFailed | registerWriteFailed | pollReadFailed | pollModeReadFailed
  | pollModeWriteFailed | pollDisagreed =>
    exact .inr (.inr (.inr (.inr (.inr ⟨rfl, by simp [readEvents, samplePoll], _, rfl, .inl rfl⟩))))

/-! ### The second STANDBY -/

/-- A STANDBY whose trace shows both its transactions through wrote the Standby byte, and committed it. -/
theorem standby_of_trace {s t : State} {v w : Byte} (hexec : exec .standby s = .next t)
    (htrace : t.trace = [.read 0x80 (some v), .write 0x80 w true]) :
    w = modeByte .standby v ∧ t.blk = registerCommit .standby (setShadow s.blk 0x80 (some w)) := by
  have written : w = modeByte .standby v := (exec_writesBack (before := []) hexec htrace).eq_change rfl
  refine ⟨written, ?_⟩
  rcases exec_register_cases (i := .standby) (s := s) rfl rfl with
    ⟨_, executed⟩ | ⟨_, _, _, executed⟩ | ⟨v', _, _, executed⟩ <;>
    obtain rfl := Host.Outcome.next.inj (executed.symm.trans hexec)
  · simp at htrace
  · simp at htrace
  · simp only [outcomeOf_trace, List.cons.injEq, BusEvent.write.injEq] at htrace
    obtain ⟨_, ⟨_, rfl, _⟩, _⟩ := htrace
    rfl

/-- A mode write of a byte that the same mode write left is that byte again (42_sweep_controller.md R149). -/
theorem modeByte_modeByte (m : Mode) (v : Byte) : modeByte m (modeByte m v) = modeByte m v := by
  have low := modeByte_and_low m v
  unfold modeByte at low ⊢
  rw [low]

/-- The mode bits of a mode write are the pattern's (41_control_register.md R123). -/
theorem extractLsb'_modeByte_high (m : Mode) (v : Byte) :
    (modeByte m v).extractLsb' 4 4 = (modePattern m).extractLsb' 4 4 := by
  have cleared : (0x07 : Byte).extractLsb' 4 4 = 0#4 := rfl
  rw [modeByte, BitVec.extractLsb'_or, BitVec.extractLsb'_and, cleared, BitVec.and_zero, BitVec.zero_or]

/-- The low three bits of a mode write are those of the byte read (41_control_register.md R122). -/
theorem extractLsb'_modeByte_low (m : Mode) (v : Byte) : (modeByte m v).extractLsb' 0 3 = v.extractLsb' 0 3 := by
  have kept : (0x07 : Byte).extractLsb' 0 3 = BitVec.allOnes 3 := rfl
  have pattern : (modePattern m).extractLsb' 0 3 = 0#3 := by cases m <;> rfl
  rw [modeByte, BitVec.extractLsb'_or, BitVec.extractLsb'_and, kept, pattern, BitVec.and_allOnes, BitVec.or_zero]

/-- Settles O34: both STANDBYs write the Standby byte for the byte they read, and commit it to a block that is otherwise
already cleared. -/
theorem standbyTwiceChangesNothingMore : Obligations.StandbyTwiceChangesNothingMore := by
  intro s t u v w x y first second firstTrace secondTrace
  obtain ⟨rfl, firstBlock⟩ := standby_of_trace first firstTrace
  obtain ⟨rfl, secondBlock⟩ := standby_of_trace second secondTrace
  refine ⟨?_, rfl, by rw [firstBlock]; rfl, by rw [secondBlock]; rfl,
    (extractLsb'_modeByte_high .standby x).trans (extractLsb'_modeByte_high .standby v).symm,
    extractLsb'_modeByte_low .standby x⟩
  rintro rfl
  rw [secondBlock, firstBlock, modeByte_modeByte]
  exact ⟨rfl, rfl⟩

end Sys2Proof.Machine
end

section
/-! PROOFS of the sweep-controller family (42_sweep_controller.md), continued: a host that keeps sending POLL sees the block
leave Sweeping within the bound (R148). -/

namespace Sys2Proof.Machine

/-! ### One POLL from the command port -/

/-- A POLL sent by the host ends with an effect of POLL. -/
theorem stepped_poll {s : State} {rest : List HostInput} (hin : s.inputs = .command (encode .poll) :: rest) :
    ∃ events b r, Effect .poll { s with inputs := rest } events b r ∧
      stepped s = outcomeOf { s with inputs := rest } events b r := by
  obtain ⟨events, b, r, he, executed⟩ := exec_effect .poll { s with inputs := rest }
  have run := stepRunsTheDecodedCommand s (encode .poll) rest .poll hin (decodeOfEncodeReturnsTheCommand .poll)
  exact ⟨events, b, r, he, by rw [stepped, run, executed]⟩

/-- A POLL after which the block still sweeps was answered OK, and without a sample it did no more than count one empty
poll (43_measurement_poller.md R163). -/
theorem effect_poll_of_sweeping {s : State} {events : List BusEvent} {b : Block} {r : Response}
    (he : Effect .poll s events b r) (hctl : s.blk.ctl = .sweeping) (stays : b.ctl = .sweeping) :
    r.status = .ok ∧ (r.sampleValid = false → b = { s.blk with failPolls := s.blk.failPolls + 1 }) := by
  cases he with
  | illegal _ _ hl => rw [hctl] at hl; exact nomatch hl
  | registerReadFailed | registerWriteFailed | pollReadFailed | pollTimedOut | pollModeReadFailed | pollModeWriteFailed
  | pollCompleted | pollDisagreed => exact nomatch stays
  | registerChanged _ _ _ _ _ hi => exact nomatch hi
  | pollCounted => exact ⟨rfl, fun _ => rfl⟩
  | pollRepeated | pollAdvanced => exact ⟨rfl, nofun⟩

section Sweeping

variable {s : State} {rest : List HostInput} (h : Inv s) (hctl : s.blk.ctl = .sweeping)
  (hin : s.inputs = .command (encode .poll) :: rest) (stays : (stepped s).blk.ctl = .sweeping)
include h hctl hin stays

/-- A POLL after which the block still sweeps leaves fewer polls. -/
theorem stepped_poll_pollsLeft : (stepped s).inputs = rest ∧ pollsLeft (stepped s) < pollsLeft s := by
  obtain ⟨events, b, r, he, eq⟩ := stepped_poll hin
  rw [eq] at stays ⊢
  have hs : Inv { s with inputs := rest } := inv_of_blk (s := s) rfl rfl h
  obtain ⟨ok, _⟩ := effect_poll_of_sweeping he hctl stays
  rcases effect_poll_progress hs hctl he with error | complete | ⟨_, fewer⟩
  · exact absurd ok error
  · exact nomatch (complete.symm.trans (effect_response_ctl he)).trans stays
  · exact ⟨rfl, fewer⟩

/-- A POLL without a sample, after which the block still sweeps, counts one empty poll. -/
theorem stepped_poll_failPolls (noSample : samplesOf [stepped s] = []) :
    (stepped s).inputs = rest ∧ (stepped s).pollBudget = s.pollBudget ∧
      (stepped s).blk.failPolls.toNat = s.blk.failPolls.toNat + 1 := by
  obtain ⟨events, b, r, he, eq⟩ := stepped_poll hin
  rw [eq] at stays noSample ⊢
  obtain ⟨_, counted⟩ := effect_poll_of_sweeping he hctl stays
  obtain rfl := counted (by simpa [samplesOf] using noSample)
  exact ⟨rfl, rfl, toNat_add_one_of_lt (h.countsInRange hctl).2⟩

end Sweeping

/-! ### A host that keeps sending POLL -/

theorem inv_stepped {s : State} (h : Inv s) : Inv (stepped s) :=
  stepKeepsTheReachableInvariant s _ h (step_eq_next_stepped s)

/-- At any time of a sweep at most the polls of R148's bound are left. -/
theorem pollsLeft_le_bound (s : State) : pollsLeft s ≤ pollBound s := by
  have points : (s.blk.pNinc.toNat - s.blk.idx.toNat) * s.blk.pRep.toNat ≤ s.blk.pNinc.toNat * s.blk.pRep.toNat :=
    Nat.mul_le_mul_right _ (Nat.sub_le ..)
  have samples : samplesLeft s.blk ≤ (s.blk.pNinc.toNat + 1) * s.blk.pRep.toNat := by
    rw [samplesLeft, Nat.add_mul]
    omega
  calc pollsLeft s ≤ samplesLeft s.blk * s.pollBudget.toNat := Nat.sub_le ..
    _ ≤ pollBound s := Nat.mul_le_mul_right _ samples

/-- As many POLLs as are left make the block leave Sweeping. -/
theorem exists_not_sweeping_of_polls (n : Nat) {s : State} {rest : List HostInput} (h : Inv s)
    (hctl : s.blk.ctl = .sweeping) (hin : s.inputs = List.replicate n (.command (encode .poll)) ++ rest)
    (enough : pollsLeft s ≤ n) : ∃ k, 1 ≤ k ∧ k ≤ n ∧ (runFor k s).blk.ctl ≠ .sweeping := by
  induction n generalizing s with
  | zero => exact absurd enough (Nat.not_le.mpr (pollsLeft_pos h hctl))
  | succ n ih =>
    by_cases stays : (stepped s).blk.ctl = .sweeping
    · obtain ⟨remain, fewer⟩ := stepped_poll_pollsLeft h hctl hin stays
      obtain ⟨k, _, within, left⟩ := ih (inv_stepped h) stays remain (by omega)
      exact ⟨k + 1, by omega, by omega, left⟩
    · exact ⟨1, by omega, by omega, stays⟩

/-- POLLs without a sample in Sweeping add up on the empty-poll count, which stays below the budget. -/
theorem failPolls_add_lt_of_no_sample (n : Nat) {s : State} {rest : List HostInput} (h : Inv s)
    (hin : s.inputs = List.replicate n (.command (encode .poll)) ++ rest) (k : Nat) (within : k ≤ n)
    (stays : ∀ j ≤ k, (runFor j s).blk.ctl = .sweeping) (noSample : samplesOf (visited k s) = []) :
    s.blk.failPolls.toNat + k < s.pollBudget.toNat := by
  induction k generalizing s n with
  | zero => exact (h.countsInRange (stays 0 (Nat.le_refl 0))).2
  | succ k ih =>
    obtain ⟨n, rfl⟩ : ∃ m, n = m + 1 := ⟨n - 1, by omega⟩
    have split : samplesOf (visited (k + 1) s) = samplesOf [stepped s] ++ samplesOf (visited k (stepped s)) := by
      simp only [visited, samplesOf, ← List.filter_append, ← List.filterMap_append, List.singleton_append]
    obtain ⟨first, later⟩ := List.append_eq_nil_iff.mp (split.symm.trans noSample)
    obtain ⟨remain, budget, counted⟩ :=
      stepped_poll_failPolls h (stays 0 (Nat.zero_le _)) hin (stays 1 (by omega)) first
    have below := ih n (inv_stepped h) remain (by omega) (fun j hj => stays (j + 1) (by omega)) later
    rw [counted, budget] at below
    omega

/-- A block to which the host sends nothing stays in its controller state. -/
theorem runFor_ctl_of_no_input {s : State} (hin : s.inputs = []) (k : Nat) : (runFor k s).blk.ctl = s.blk.ctl := by
  have waits : ∀ t u, t.inputs = [] ∧ t.blk.ctl = s.blk.ctl → step t = .next u →
      u.inputs = [] ∧ u.blk.ctl = s.blk.ctl := by
    rintro t u ⟨noInput, same⟩ hstep
    obtain rfl := Host.Outcome.next.inj ((step_of_no_input noInput).symm.trans hstep)
    exact ⟨noInput, same⟩
  exact (runFor_keeps waits k ⟨hin, rfl⟩).2

/-- Settles O59: each POLL that keeps the block in Sweeping uses up one of the polls left, of which there are no more than
the bound; and each one without a sample counts up the empty polls, which stay below the budget. -/
theorem pollingLeavesSweepingInTime : Obligations.PollingLeavesSweepingInTime := by
  intro s h hctl
  refine ⟨fun rest hin => ⟨?_, fun k within stays noSample => ?_⟩, fun hin k => (runFor_ctl_of_no_input hin k).trans hctl⟩
  · exact exists_not_sweeping_of_polls (pollBound s) h hctl hin (pollsLeft_le_bound s)
  · have below := failPolls_add_lt_of_no_sample (pollBound s) h hin k within stays noSample
    omega

end Sys2Proof.Machine
end

section
/-! PROOFS of the sweep-controller family (42_sweep_controller.md), continued: what a sweep that ends in Complete has emitted
(R147). Each step of the sweep adds to a log of samples, points and mode writes, and the tally of that log with the block
is kept by each kind of step. -/

namespace Sys2Proof.Machine

/-! ### The log of a run -/

/-- What the steps of a sweep put out: samples, points, and how many Repeat and Increment writes. -/
structure SweepLog where
  samples : List Response
  points : List Response
  repeats : Nat
  increments : Nat

/-- The log that the states after the steps show. -/
def logOf (states : List State) : SweepLog where
  samples := samplesOf states
  points := pointsOf states
  repeats := modeWrites .repeat states
  increments := modeWrites .increment states

/-- One log, then another. -/
def SweepLog.add (first later : SweepLog) : SweepLog where
  samples := first.samples ++ later.samples
  points := first.points ++ later.points
  repeats := first.repeats + later.repeats
  increments := first.increments + later.increments

theorem logOf_append (first later : List State) : logOf (first ++ later) = (logOf first).add (logOf later) := by
  simp [logOf, SweepLog.add, samplesOf, pointsOf, modeWrites]

/-- Nothing put out. -/
def SweepLog.empty : SweepLog := ⟨[], [], 0, 0⟩

@[simp] theorem SweepLog.add_empty (log : SweepLog) : log.add .empty = log := by simp [SweepLog.add, SweepLog.empty]


/-- The log of one command's outcome: its response where that carries a sample or a point, and its mode writes. -/
theorem logOf_outcomeOf (s : State) (events : List BusEvent) (b : Block) (r : Response) :
    logOf [outcomeOf s events b r] = ⟨bif r.sampleValid then [r] else [], bif r.pointValid then [r] else [],
      modeWrites .repeat [outcomeOf s events b r], modeWrites .increment [outcomeOf s events b r]⟩ := by
  simp only [logOf, samplesOf, pointsOf, List.filterMap_cons, outcomeOf_response, List.filterMap_nil,
    List.filter_singleton]

/-- Reads are no mode writes. -/
theorem modeWrites_reads (m : Mode) {t : State} {xs : List (Addr × Byte)} (htrace : t.trace = readEvents xs) :
    modeWrites m [t] = 0 := by
  simp [modeWrites, htrace, readEvents, List.countP_eq_zero]

/-- Reads with a mode write of CR1 behind them are one mode write, of that mode. -/
theorem modeWrites_modified (m m' : Mode) (s : State) (xs : List (Addr × Byte)) (v : Byte) (b : Block) (r : Response) :
    modeWrites m [outcomeOf s (readEvents xs ++ [.read 0x80 (some v), .write 0x80 (modeByte m' v) true]) b r] =
      if m' = m then 1 else 0 := by
  simp [modeWrites, readEvents, List.countP_append, List.countP_map, Function.comp_def, List.countP_cons, modeOf_modeByte]

/-- A step that answers neither a sample nor a point, after no transaction but reads, logs nothing. -/
theorem logOf_quiet {t : State} (answer : ∀ r, t.response = some r → r.sampleValid = false ∧ r.pointValid = false)
    (xs : List (Addr × Byte)) (htrace : t.trace = readEvents xs) : logOf [t] = .empty := by
  have noWrites : ∀ m, modeWrites m [t] = 0 := fun m => modeWrites_reads m htrace
  cases hr : t.response with
  | none => simp [logOf, SweepLog.empty, samplesOf, pointsOf, noWrites, hr]
  | some r => simp [logOf, SweepLog.empty, samplesOf, pointsOf, noWrites, hr, answer r hr]

/-! ### One step of a sweep -/

/-- What a step of a block `b` in Sweeping comes to that neither faults nor leaves the sweep before its end: nothing but
the empty-poll count, or one of the three things a sample does (43_measurement_poller.md R163 to R165). -/
inductive SweepStep (b : Block) (t : State) : Prop
  | quiet (polls : BitVec 32) (blk : t.blk = { b with failPolls := polls }) (log : logOf [t] = .empty)
  | repeated (re im : BitVec 16) (shadow : Option Byte) (before : b.rc.toNat + 1 < b.pRep.toNat)
      (blk : t.blk = { b with
        sumRe := accumulate b.sumRe re
        sumIm := accumulate b.sumIm im
        rc := b.rc + 1
        sub := .repeating
        failPolls := 0
        cr1Shadow := shadow })
      (log : logOf [t] = ⟨[sampleResponse .sweeping re im], [], 1, 0⟩)
  | advanced (re im : BitVec 16) (shadow : Option Byte) (full : b.pRep.toNat ≤ b.rc.toNat + 1) (notLast : b.idx ≠ b.pNinc)
      (blk : t.blk = { b with
        idx := b.idx + 1, rc := 0, sumRe := 0, sumIm := 0, sub := .advancing, failPolls := 0, cr1Shadow := shadow })
      (log : logOf [t] = ⟨[pointResponse .sweeping re im b], [pointResponse .sweeping re im b], 0, 1⟩)
  | completed (re im : BitVec 16) (full : b.pRep.toNat ≤ b.rc.toNat + 1) (last : b.idx = b.pNinc)
      (blk : t.blk = { b with ctl := .complete, sub := .none, rc := 0, sumRe := 0, sumIm := 0, failPolls := 0 })
      (log : logOf [t] = ⟨[pointResponse .complete re im b], [pointResponse .complete re im b], 0, 0⟩)

/-- A command that ends in Sweeping or in Complete, issued in Sweeping, makes a step of the sweep. -/
theorem sweepStep_of_effect {i : Instr} {s : State} {events : List BusEvent} {b : Block} {r : Response}
    (he : Effect i s events b r) (hctl : s.blk.ctl = .sweeping) (stays : b.ctl = .sweeping ∨ b.ctl = .complete) :
    SweepStep s.blk (outcomeOf s events b r) := by
  cases he with
  | illegal | encoded | notEncoded => exact .quiet s.blk.failPolls rfl (logOf_quiet (by simp [rejection]) [] rfl)
  | notConfigured _ _ _ _ _ _ _ _ hs | configured _ _ _ _ _ _ _ _ _ _ hs => simp [hctl] at hs
  | registerChanged _ _ addr change v hi hl =>
    cases i with
    | standby | powerDown => simp [registerCommit] at stays
    | setRange | setGain | setClockSource | init | start => simp [legal, hctl] at hl
    | encode | configure | poll => exact nomatch hi
  | configureFailed | registerReadFailed | registerWriteFailed | pollReadFailed | pollTimedOut | pollModeReadFailed
  | pollModeWriteFailed | pollDisagreed => simp at stays
  | pollCounted _ st => exact .quiet _ rfl (logOf_quiet (by simp [okResponse]) [(0x8F, st)] rfl)
  | pollRepeated _ st rh rl ih il v _ _ _ before =>
    exact .repeated (word16 rh rl) (word16 ih il) _ before rfl
      (by rw [logOf_outcomeOf, modeWrites_modified, modeWrites_modified]; rfl)
  | pollAdvanced _ st rh rl ih il v _ _ _ full _ notLast =>
    exact .advanced (word16 rh rl) (word16 ih il) _ full notLast rfl
      (by rw [logOf_outcomeOf, modeWrites_modified, modeWrites_modified]; rfl)
  | pollCompleted _ st rh rl ih il _ _ _ full _ last =>
    exact .completed (word16 rh rl) (word16 ih il) full last rfl
      (by rw [logOf_outcomeOf, modeWrites_reads _ rfl, modeWrites_reads _ rfl]; rfl)

/-- A step that ends in Sweeping or in Complete, taken in Sweeping, is a step of the sweep, whatever the host sent. -/
theorem sweepStep_of_step {s t : State} (hctl : s.blk.ctl = .sweeping) (hstep : step s = .next t)
    (stays : t.blk.ctl = .sweeping ∨ t.blk.ctl = .complete) : SweepStep s.blk t := by
  rcases step_cases s with ⟨_, idle⟩ | ⟨rest, _, reset⟩ | ⟨f, rest, i, _, _, command⟩ | ⟨f, rest, op, _, _, reserved⟩
  · obtain rfl : idleStep s = t := Host.Outcome.next.inj (idle.symm.trans hstep)
    exact .quiet s.blk.failPolls rfl (logOf_quiet (by simp) [] rfl)
  · obtain rfl : resetBlock { s with inputs := rest } = t := Host.Outcome.next.inj (reset.symm.trans hstep)
    simp [Block.reset] at stays
  · obtain ⟨events, b, r, he, rfl⟩ := effect_of_exec (command.symm.trans hstep)
    exact sweepStep_of_effect he hctl stays
  · rw [reserved, execReserved, runCommand_eq, conclude_raiseIllegal] at hstep
    obtain rfl := Host.Outcome.next.inj hstep
    exact .quiet s.blk.failPolls rfl (logOf_quiet (by simp [rejection]) [] rfl)

/-! ### The sums of the points -/

/-- The exact sum of one component over the samples of point `j`, `rep` samples to a point. -/
def pointSum (component : Response → BitVec 16) (rep j : Nat) (samples : List Response) : Int :=
  (((samples.drop (j * rep)).take rep).map fun x => (component x).toInt).sum

section PointSum

variable (component : Response → BitVec 16) {rep j : Nat} {samples : List Response}

/-- A point whose samples are all taken has its sum for good. -/
theorem pointSum_append_of_taken (taken : (j + 1) * rep ≤ samples.length) (later : List Response) :
    pointSum component rep j (samples ++ later) = pointSum component rep j samples := by
  rw [Nat.add_mul, Nat.one_mul] at taken
  rw [pointSum, List.drop_append_of_le_length (by omega), List.take_append_of_le_length (by simp; omega), pointSum]

/-- A sample taken for the present point adds to its sum. -/
theorem pointSum_append_sample {r : Nat} (count : samples.length = j * rep + r) (room : r < rep) (x : Response) :
    pointSum component rep j (samples ++ [x]) = pointSum component rep j samples + (component x).toInt := by
  have whole : ∀ later : List Response, later.length ≤ 1 →
      ((samples ++ later).drop (j * rep)).take rep = samples.drop (j * rep) ++ later := fun later one => by
    rw [List.drop_append_of_le_length (by omega), List.take_of_length_le (by simp; omega)]
  have before := whole [] (by simp)
  rw [List.append_nil, List.append_nil] at before
  rw [pointSum, pointSum, whole [x] (by simp), before]
  simp

/-- Before its first sample a point has the sum 0. -/
theorem pointSum_of_length_le (noSample : samples.length ≤ j * rep) : pointSum component rep j samples = 0 := by
  rw [pointSum, List.drop_eq_nil_of_le noSample]
  simp

end PointSum

/-! ### The tally -/

/-- How the log of a sweep of `ninc` steps with `rep` samples to a point stands with the block `b`, when `n` points are
taken: every point emitted has its index, its count and its sums, and the samples and mode writes beyond them are those
that the block's registers count and sum. -/
structure Tally (ninc : BitVec 9) (rep : BitVec 16) (b : Block) (n : Nat) (log : SweepLog) : Prop where
  pNinc_eq : b.pNinc = ninc
  pRep_eq : b.pRep = rep
  indices : log.points.map (fun p => p.ptIdx.toNat) = List.range n
  counts : ∀ p ∈ log.points, p.ptCount = rep
  sums : ∀ (j : Nat) (p : Response), log.points[j]? = some p →
    p.ptSumRe.toInt = pointSum Response.re rep.toNat j log.samples ∧
    p.ptSumIm.toInt = pointSum Response.im rep.toNat j log.samples
  samples : log.samples.length = n * rep.toNat + b.rc.toNat
  sumRe : b.sumRe.toInt = pointSum Response.re rep.toNat n log.samples
  sumIm : b.sumIm.toInt = pointSum Response.im rep.toNat n log.samples
  repeats : log.repeats = n * (rep.toNat - 1) + b.rc.toNat
  increments : log.increments = b.idx.toNat

/-- The tally does not look at the empty-poll count. -/
theorem Tally.withFailPolls {ninc : BitVec 9} {rep : BitVec 16} {b : Block} {n : Nat} {log : SweepLog}
    (h : Tally ninc rep b n log) (polls : BitVec 32) : Tally ninc rep { b with failPolls := polls } n log :=
  ⟨h.pNinc_eq, h.pRep_eq, h.indices, h.counts, h.sums, h.samples, h.sumRe, h.sumIm, h.repeats, h.increments⟩

/-- The tally at the start of a sweep. -/
theorem tally_of_sweepBegun {s : State} (begun : sweepBegun s) :
    Tally s.blk.pNinc s.blk.pRep s.blk s.blk.idx.toNat (logOf (visited 0 s)) := by
  obtain ⟨_, idx, rc, sumRe, sumIm⟩ := begun
  have emptyLog : logOf (visited 0 s) = .empty := rfl
  rw [emptyLog]
  exact
    { pNinc_eq := rfl
      pRep_eq := rfl
      indices := by simp [SweepLog.empty, idx]
      counts := by simp [SweepLog.empty]
      sums := by simp [SweepLog.empty]
      samples := by simp [SweepLog.empty, idx, rc]
      sumRe := by simp [SweepLog.empty, pointSum, sumRe]
      sumIm := by simp [SweepLog.empty, pointSum, sumIm]
      repeats := by simp [SweepLog.empty, idx, rc]
      increments := by simp [SweepLog.empty, idx] }

section OneSample

variable {ninc : BitVec 9} {rep : BitVec 16} {b : Block} {n : Nat} {log : SweepLog} (h : Tally ninc rep b n log)
include h

theorem Tally.points_length : log.points.length = n := by simpa using congrArg List.length h.indices

/-- The points emitted keep their sums when a sample is taken. -/
theorem Tally.sums_append (x : Response) {j : Nat} {p : Response} (hp : log.points[j]? = some p) :
    p.ptSumRe.toInt = pointSum Response.re rep.toNat j (log.samples ++ [x]) ∧
      p.ptSumIm.toInt = pointSum Response.im rep.toNat j (log.samples ++ [x]) := by
  have emitted : j < n := h.points_length ▸ (List.getElem?_eq_some_iff.mp hp).1
  have taken : (j + 1) * rep.toNat ≤ log.samples.length := by
    have earlier : (j + 1) * rep.toNat ≤ n * rep.toNat := Nat.mul_le_mul_right _ emitted
    have samples := h.samples
    omega
  rw [pointSum_append_of_taken _ taken, pointSum_append_of_taken _ taken]
  exact h.sums j p hp

/-- The block's sums with one sample more are the sums of the point's samples with that one more (44_averager.md R180). -/
theorem Tally.accumulated (room : b.rc.toNat < rep.toNat) (range : sumsInRange b) (x : Response) :
    (accumulate b.sumRe x.re).toInt = pointSum Response.re rep.toNat n (log.samples ++ [x]) ∧
      (accumulate b.sumIm x.im).toInt = pointSum Response.im rep.toNat n (log.samples ++ [x]) := by
  have few : b.rc.toNat + 1 ≤ 65535 := by have := rep.isLt; omega
  rw [accumulate_toInt x.re few range.1, accumulate_toInt x.im few range.2, h.sumRe, h.sumIm,
    pointSum_append_sample _ h.samples room, pointSum_append_sample _ h.samples room]
  exact ⟨rfl, rfl⟩

/-- A sample that does not complete its point keeps the tally (43_measurement_poller.md R164). -/
theorem Tally.repeated (before : b.rc.toNat + 1 < rep.toNat) (range : sumsInRange b) (re im : BitVec 16)
    (shadow : Option Byte) :
    Tally ninc rep
      { b with
        sumRe := accumulate b.sumRe re
        sumIm := accumulate b.sumIm im
        rc := b.rc + 1
        sub := .repeating
        failPolls := 0
        cr1Shadow := shadow }
      n (log.add ⟨[sampleResponse .sweeping re im], [], 1, 0⟩) := by
  have counted : (b.rc + 1).toNat = b.rc.toNat + 1 := toNat_add_one_of_lt (y := rep) (by omega)
  obtain ⟨sumRe, sumIm⟩ := h.accumulated (by omega) range (sampleResponse .sweeping re im)
  exact
    { pNinc_eq := h.pNinc_eq
      pRep_eq := h.pRep_eq
      indices := by simpa [SweepLog.add] using h.indices
      counts := by simpa [SweepLog.add] using h.counts
      sums := fun j p hp => h.sums_append _ (by simpa [SweepLog.add] using hp)
      samples := by simp only [SweepLog.add, List.length_append, h.samples, counted]; rfl
      sumRe := sumRe
      sumIm := sumIm
      repeats := by simp only [SweepLog.add, h.repeats, counted]; rfl
      increments := h.increments }

/-- With the point emitted that the sample completes, every point has the sums of its samples (44_averager.md R183). -/
theorem Tally.sums_pointTaken (room : b.rc.toNat < rep.toNat) (range : sumsInRange b) (answered : Ctl) (re im : BitVec 16)
    {j : Nat} {p : Response} (hp : (log.points ++ [pointResponse answered re im b])[j]? = some p) :
    p.ptSumRe.toInt = pointSum Response.re rep.toNat j (log.samples ++ [pointResponse answered re im b]) ∧
      p.ptSumIm.toInt = pointSum Response.im rep.toNat j (log.samples ++ [pointResponse answered re im b]) := by
  rcases Nat.lt_or_ge j log.points.length with emitted | new
  · rw [List.getElem?_append_left emitted] at hp
    exact h.sums_append _ hp
  · rw [List.getElem?_append_right new, List.getElem?_singleton, Option.ite_none_right_eq_some, Option.some.injEq] at hp
    obtain ⟨last, rfl⟩ := hp
    obtain rfl : j = n := by have := h.points_length; omega
    exact h.accumulated room range (pointResponse answered re im b)

/-- A sample that completes its point, which is emitted, makes the tally of one point more, with whatever controller state,
sub-phase, index and CR1 shadow the block goes on (43_measurement_poller.md R165, 44_averager.md R183). -/
theorem Tally.pointTaken (room : b.rc.toNat < rep.toNat) (full : rep.toNat ≤ b.rc.toNat + 1) (present : b.idx.toNat = n)
    (range : sumsInRange b) (answered : Ctl) (re im : BitVec 16) {ctl : Ctl} {sub : Sub} {idx : BitVec 9}
    {shadow : Option Byte} {advances : Nat} (advanced : idx.toNat = b.idx.toNat + advances) :
    Tally ninc rep
      { b with
        ctl := ctl, sub := sub, idx := idx, rc := 0, sumRe := 0, sumIm := 0, failPolls := 0, cr1Shadow := shadow }
      (n + 1) (log.add ⟨[pointResponse answered re im b], [pointResponse answered re im b], 0, advances⟩) := by
  have samples : (log.samples ++ [pointResponse answered re im b]).length = (n + 1) * rep.toNat := by
    rw [List.length_append, h.samples, List.length_singleton, Nat.add_mul]
    omega
  have repeats : log.repeats = (n + 1) * (rep.toNat - 1) := by
    rw [h.repeats, Nat.add_mul]
    omega
  exact
    { pNinc_eq := h.pNinc_eq
      pRep_eq := h.pRep_eq
      indices := by simp [SweepLog.add, h.indices, List.range_succ, pointResponse, present]
      counts := List.forall_mem_append.mpr ⟨h.counts, by simp [pointResponse, h.pRep_eq]⟩
      sums := fun j p hp => h.sums_pointTaken room range answered re im hp
      samples := samples
      sumRe := (pointSum_of_length_le _ samples.le).symm
      sumIm := (pointSum_of_length_le _ samples.le).symm
      repeats := repeats
      increments := by simp only [SweepLog.add, h.increments, advanced] }

end OneSample

/-- A step of the sweep keeps the tally; if it ends in Complete, the index is the last one and no sample is pending. -/
theorem Tally.step {ninc : BitVec 9} {rep : BitVec 16} {s t : State} {log : SweepLog} (inv : Inv s)
    (hctl : s.blk.ctl = .sweeping) (h : Tally ninc rep s.blk s.blk.idx.toNat log) (taken : SweepStep s.blk t) :
    (t.blk.ctl = .sweeping ∧ Tally ninc rep t.blk t.blk.idx.toNat (log.add (logOf [t]))) ∨
    (t.blk.ctl = .complete ∧ t.blk.idx = ninc ∧ t.blk.rc = 0 ∧
      Tally ninc rep t.blk (t.blk.idx.toNat + 1) (log.add (logOf [t]))) := by
  obtain ⟨room, _⟩ := inv.countsInRange hctl
  obtain ⟨_, index⟩ := inv.indexInRange (.inr (.inl hctl))
  rw [h.pRep_eq] at room
  cases taken with
  | quiet polls blk logged =>
    rw [blk, logged, SweepLog.add_empty]
    exact .inl ⟨hctl, h.withFailPolls polls⟩
  | repeated re im shadow before blk logged =>
    rw [h.pRep_eq] at before
    rw [blk, logged]
    exact .inl ⟨hctl, h.repeated before inv.sumsInRange re im shadow⟩
  | advanced re im shadow full notLast blk logged =>
    have below : s.blk.idx.toNat < s.blk.pNinc.toNat :=
      Nat.lt_of_le_of_ne index fun last => notLast (BitVec.eq_of_toNat_eq last)
    have next : (s.blk.idx + 1).toNat = s.blk.idx.toNat + 1 := toNat_add_one_of_lt below
    rw [h.pRep_eq] at full
    rw [blk, logged]
    have taken := h.pointTaken room full rfl inv.sumsInRange .sweeping re im (ctl := s.blk.ctl) (sub := .advancing)
      (shadow := shadow) next
    rw [← next] at taken
    exact .inl ⟨hctl, taken⟩
  | completed re im full last blk logged =>
    rw [h.pRep_eq] at full
    rw [blk, logged]
    exact .inr ⟨rfl, last.trans h.pNinc_eq, rfl,
      h.pointTaken room full rfl inv.sumsInRange .complete re im (idx := s.blk.idx) (advances := 0) rfl⟩

/-! ### The whole sweep -/

theorem runFor_succ (k : Nat) (s : State) : runFor (k + 1) s = stepped (runFor k s) := by
  induction k generalizing s with
  | zero => rfl
  | succ k ih => exact ih (stepped s)

theorem visited_succ (k : Nat) (s : State) : visited (k + 1) s = visited k s ++ [runFor (k + 1) s] := by
  induction k generalizing s with
  | zero => rfl
  | succ k ih => exact congrArg (stepped s :: ·) (ih (stepped s))

/-- A step of a run that is in Sweeping before and goes on in Sweeping or in Complete is a step of the sweep. -/
theorem sweepStep_runFor {s : State} {k : Nat} (hctl : (runFor k s).blk.ctl = .sweeping)
    (stays : (runFor (k + 1) s).blk.ctl = .sweeping ∨ (runFor (k + 1) s).blk.ctl = .complete) :
    SweepStep (runFor k s).blk (runFor (k + 1) s) := by
  rw [runFor_succ] at stays ⊢
  exact sweepStep_of_step hctl (step_eq_next_stepped _) stays

/-- The tally holds as long as the sweep goes on. -/
theorem tally_runFor {s : State} (h : Inv s) (begun : sweepBegun s) (k : Nat)
    (stays : ∀ j ≤ k, (runFor j s).blk.ctl = .sweeping) :
    Tally s.blk.pNinc s.blk.pRep (runFor k s).blk (runFor k s).blk.idx.toNat (logOf (visited k s)) := by
  induction k with
  | zero => exact tally_of_sweepBegun begun
  | succ k ih =>
    have before : (runFor k s).blk.ctl = .sweeping := stays k (Nat.le_succ k)
    have now : (runFor (k + 1) s).blk.ctl = .sweeping := stays (k + 1) (Nat.le_refl _)
    have inv : Inv (runFor k s) := runFor_keeps stepKeepsTheReachableInvariant k h
    rw [visited_succ, logOf_append]
    rcases (ih fun j hj => stays j (Nat.le_succ_of_le hj)).step inv before (sweepStep_runFor before (.inl now)) with
      ⟨_, kept⟩ | ⟨complete, _⟩
    · exact kept
    · exact nomatch now.symm.trans complete

/-- Settles O58: the tally holds up to the last step in Sweeping, and the step into Complete makes it that of all points. -/
theorem completedSweepCardinality : Obligations.CompletedSweepCardinality := by
  intro s k h begun stays complete
  cases k with
  | zero => exact nomatch begun.1.symm.trans complete
  | succ k =>
    have before : (runFor k s).blk.ctl = .sweeping := stays k (Nat.lt_succ_self k)
    have inv : Inv (runFor k s) := runFor_keeps stepKeepsTheReachableInvariant k h
    have tally := tally_runFor h begun k fun j hj => stays j (Nat.lt_succ_of_le hj)
    rcases tally.step inv before (sweepStep_runFor before (.inr complete)) with ⟨sweeping, _⟩ | ⟨_, last, noSample, final⟩
    · exact nomatch sweeping.symm.trans complete
    · rw [← logOf_append, ← visited_succ, last] at final
      refine ⟨final.indices, final.counts, ?_, final.sums, ?_, last ▸ final.increments⟩
      · simpa [noSample, logOf] using final.samples
      · simpa [noSample, logOf] using final.repeats

end Sys2Proof.Machine
end

section
/-! PROOFS of the measurement-poller family (43_measurement_poller.md): a POLL runs to the effect that its answers name, so
each effect of `Effect` for POLL is what `exec` answers. What a POLL does in a given case, and that it looks at two bits of
the status alone, are read from that. -/

namespace Sys2Proof.Machine

/-! ### Transactions with a known answer -/

section Transaction

variable {s : State} {events : List BusEvent} {b : Block} {addr : Addr}

theorem memRead_during_of_reads {v : Byte} (h : reads s events.length addr v) :
    memRead addr (during s events b) = .go v (during s (events ++ [.read addr (some v)]) b) := by
  rw [memRead_of_reads ((reads_during ..).mpr h), record_during]

theorem memRead_during_of_readFails (h : readFails s events.length addr) :
    memRead addr (during s events b) = .raised (.bus false addr) (during s (events ++ [.read addr none]) b) := by
  rw [memRead_of_readFails ((readFails_during ..).mpr h), record_during]

theorem setMode_during_of_readFails (m : Mode) (h : readFails s events.length 0x80) :
    setMode m (during s events b) = .raised (.bus false 0x80) (during s (events ++ [.read 0x80 none]) b) := by
  rw [setMode, modifyRegister, cr1Addr, memRead_during_of_readFails h, andThen_raised]

theorem setMode_during_of_writeFails {m : Mode} {v : Byte} (hr : reads s events.length 0x80 v)
    (hw : writeFails s (events.length + 1) 0x80 (modeByte m v)) :
    setMode m (during s events b) = .raised (.bus true 0x80)
      (during s (events ++ [.read 0x80 (some v), .write 0x80 (modeByte m v) false]) (setShadow b 0x80 none)) := by
  rw [setMode, modifyRegister, cr1Addr, memRead_during_of_reads hr, andThen_go,
    memWrite_of_writeFails ((writeFails_during ..).mpr (by simpa using hw)), failedWrite, record_during, during_withBlk,
    List.append_assoc]
  rfl

theorem setMode_during_of_writes {m : Mode} {v : Byte} (hr : reads s events.length 0x80 v)
    (hw : writes s (events.length + 1) 0x80 (modeByte m v)) :
    setMode m (during s events b) = .go ()
      (during s (events ++ [.read 0x80 (some v), .write 0x80 (modeByte m v) true])
        (setShadow b 0x80 (some (modeByte m v)))) := by
  rw [setMode, modifyRegister, cr1Addr, memRead_during_of_reads hr, andThen_go,
    memWrite_of_writes ((writes_during ..).mpr (by simpa using hw)), wrote, record_during, during_withBlk,
    List.append_assoc]
  rfl

end Transaction

/-! ### Runs of reads with known answers -/

/-- Reads that all succeed have no failed read among them. -/
theorem not_readFails_of_readsAll {s : State} {xs done : List (Addr × Byte)} {addr : Addr} {later : List Addr}
    (h : readsAll s xs) (order : done.map Prod.fst ++ addr :: later = xs.map Prod.fst) :
    ¬ readFails s done.length addr := by
  intro failed
  have atDone : (xs.map Prod.fst)[done.length]? = some addr := by rw [← order]; simp
  rw [List.getElem?_map, Option.map_eq_some_iff] at atDone
  obtain ⟨x, found, rfl⟩ := atDone
  exact nomatch (h _ x found).symm.trans failed

/-- Of reads in a fixed order, the answers single out the first that fails, and the bytes read before it. -/
theorem firstFailure_unique {s : State} {done done' : List (Addr × Byte)} {addr addr' : Addr} {later later' : List Addr}
    (order : done.map Prod.fst ++ addr :: later = done'.map Prod.fst ++ addr' :: later')
    (hr : readsAll s done) (hf : readFails s done.length addr)
    (hr' : readsAll s done') (hf' : readFails s done'.length addr') : done = done' ∧ addr = addr' := by
  induction done generalizing s done' with
  | nil =>
    cases done' with
    | nil => exact ⟨rfl, (List.cons.inj order).1⟩
    | cons y rest' =>
      obtain ⟨rfl, -⟩ := List.cons.inj order
      exact nomatch ((readsAll_cons ..).mp hr').1.symm.trans hf
  | cons x rest ih =>
    obtain ⟨read, hrest⟩ := (readsAll_cons ..).mp hr
    cases done' with
    | nil =>
      obtain ⟨rfl, -⟩ := List.cons.inj order
      exact nomatch read.symm.trans hf'
    | cons y rest' =>
      obtain ⟨read', hrest'⟩ := (readsAll_cons ..).mp hr'
      obtain ⟨sameAddr, orderRest⟩ := List.cons.inj order
      obtain rfl : x = y := Prod.ext sameAddr (reads_unique (sameAddr ▸ read) read')
      obtain ⟨rfl, rfl⟩ := ih orderRest hrest ((readFails_record ..).mpr hf) hrest' ((readFails_record ..).mpr hf')
      exact ⟨rfl, rfl⟩

/-- The reads that come after the reads `pre` of a command. -/
theorem readsAll_during_of_append {s : State} {pre xs : List (Addr × Byte)} (b : Block) (h : readsAll s (pre ++ xs)) :
    readsAll (during s (readEvents pre) b) xs :=
  (readsAll_during ..).mpr fun j x hj => h _ x (by simpa [readEvents, List.getElem?_append_right] using hj)

theorem readSample_of_readsAll {s : State} {rh rl ih il : Byte}
    (h : readsAll s [(0x94, rh), (0x95, rl), (0x96, ih), (0x97, il)]) :
    readSample s = .go (word16 rh rl, word16 ih il) (afterReads [(0x94, rh), (0x95, rl), (0x96, ih), (0x97, il)] s) := by
  obtain ⟨readRh, h⟩ := (readsAll_cons ..).mp h
  obtain ⟨readRl, h⟩ := (readsAll_cons ..).mp h
  obtain ⟨readIh, h⟩ := (readsAll_cons ..).mp h
  obtain ⟨readIl, -⟩ := (readsAll_cons ..).mp h
  rw [readSample, realHighAddr, memRead_of_reads readRh, andThen_go, realLowAddr, memRead_of_reads readRl, andThen_go,
    imagHighAddr, memRead_of_reads readIh, andThen_go, imagLowAddr, memRead_of_reads readIl, andThen_go]
  rfl

theorem readSample_of_readFails {s : State} {done : List (Addr × Byte)} {addr : Addr} {later : List Addr}
    (order : done.map Prod.fst ++ addr :: later = [0x94, 0x95, 0x96, 0x97]) (hr : readsAll s done)
    (hf : readFails s done.length addr) :
    readSample s = .raised (.bus false addr) (record (afterReads done s) (.read addr none)) := by
  rcases readSample_cases s with ⟨rh, rl, ih, il, h, _⟩ | ⟨done', addr', later', order', hr', hf', e⟩
  · exact absurd hf (not_readFails_of_readsAll h order)
  · obtain ⟨rfl, rfl⟩ := firstFailure_unique (order.trans order'.symm) hr hf hr' hf'
    exact e

/-! ### The stages of a POLL -/

section Stages

variable {s : State} (hs : s.blk.ctl = .sweeping)
include hs

/-- After the status: the sample if there is one, else an empty poll (43_measurement_poller.md R160). -/
theorem pollBody_of_status {st : Byte} (hr : reads s 0 0x8F st) :
    pollBody (during s [] s.blk) =
      if statusValid st then
        andThen (readSample (during s (readEvents [(0x8F, st)]) s.blk)) fun sample t => pollSample st sample.1 sample.2 t
      else pollEmpty (during s (readEvents [(0x8F, st)]) s.blk) := by
  rw [pollBody, during_blk, if_neg (not_not.mpr hs), statusAddr, memRead_during_of_reads hr, andThen_go]
  rfl

theorem pollBody_of_empty {st : Byte} (hr : reads s 0 0x8F st) (hv : statusValid st = false) :
    pollBody (during s [] s.blk) = pollEmpty (during s (readEvents [(0x8F, st)]) s.blk) := by
  rw [pollBody_of_status hs hr, hv, if_neg Bool.false_ne_true]

/-- A POLL whose five reads do not all succeed (43_measurement_poller.md R166). -/
theorem pollBody_of_readFails {done : List (Addr × Byte)} {addr : Addr} {later : List Addr}
    (order : done.map Prod.fst ++ addr :: later = [0x8F, 0x94, 0x95, 0x96, 0x97]) (hr : readsAll s done)
    (hv : ∀ st, done.head? = some (0x8F, st) → statusValid st = true) (hf : readFails s done.length addr) :
    pollBody (during s [] s.blk) = .raised (.bus false addr) (during s (readEvents done ++ [.read addr none]) s.blk) := by
  cases done with
  | nil =>
    obtain ⟨rfl, -⟩ := List.cons.inj order
    rw [pollBody, during_blk, if_neg (not_not.mpr hs), statusAddr, memRead_during_of_readFails hf, andThen_raised]
    rfl
  | cons x rest =>
    obtain ⟨status, st⟩ := x
    obtain ⟨rfl, orderRest⟩ := List.cons.inj order
    have failed : readFails (during s (readEvents [(0x8F, st)]) s.blk) rest.length addr :=
      (readFails_during ..).mpr (by simpa [readEvents, Nat.add_comm] using hf)
    rw [pollBody_of_status hs (hr 0 _ rfl), if_pos (hv st rfl),
      readSample_of_readFails orderRest (readsAll_during_of_append (pre := [(0x8F, st)]) s.blk hr) failed, andThen_raised,
      afterReads_during, record_during]
    rfl

section Sample

variable {st rh rl ih il : Byte} (hr : readsAll s (samplePoll st rh rl ih il)) (hv : statusValid st = true)
include hr hv

/-- After the five reads: the decision (43_measurement_poller.md R164, R165). -/
theorem pollBody_of_sample :
    pollBody (during s [] s.blk) =
      pollSample st (word16 rh rl) (word16 ih il) (during s (readEvents (samplePoll st rh rl ih il)) s.blk) := by
  rw [pollBody_of_status hs (hr 0 _ rfl), if_pos hv,
    readSample_of_readsAll (readsAll_during_of_append (pre := [(0x8F, st)]) s.blk hr), andThen_go, afterReads_during]
  rfl

theorem pollBody_of_below (below : s.blk.rc.toNat + 1 < s.blk.pRep.toNat) :
    pollBody (during s [] s.blk) =
      pollRepeat (word16 rh rl) (word16 ih il) (during s (readEvents (samplePoll st rh rl ih il)) s.blk) :=
  (pollBody_of_sample hs hr hv).trans (if_pos below)

section TargetReached

variable (reached : s.blk.pRep.toNat ≤ s.blk.rc.toNat + 1)
include reached

theorem pollBody_of_advance (notDone : statusDone st = false) (notLast : s.blk.idx ≠ s.blk.pNinc) :
    pollBody (during s [] s.blk) =
      pollAdvance (word16 rh rl) (word16 ih il) (during s (readEvents (samplePoll st rh rl ih il)) s.blk) :=
  (pollBody_of_sample hs hr hv).trans ((if_neg (Nat.not_lt.mpr reached)).trans (if_pos ⟨notDone, notLast⟩))

theorem pollBody_of_complete (done : statusDone st = true) (last : s.blk.idx = s.blk.pNinc) :
    pollBody (during s [] s.blk) =
      pollComplete (word16 rh rl) (word16 ih il) (during s (readEvents (samplePoll st rh rl ih il)) s.blk) :=
  (pollBody_of_sample hs hr hv).trans ((if_neg (Nat.not_lt.mpr reached)).trans
    ((if_neg fun advance => advance.2 last).trans (if_pos ⟨done, last⟩)))

theorem pollBody_of_disagree
    (disagree : (statusDone st = true ∧ s.blk.idx ≠ s.blk.pNinc) ∨ (statusDone st = false ∧ s.blk.idx = s.blk.pNinc)) :
    pollBody (during s [] s.blk) =
      .raised (.unexpectedStatus st) (during s (readEvents (samplePoll st rh rl ih il)) s.blk) := by
  have notAdvance : ¬ (statusDone st = false ∧ s.blk.idx ≠ s.blk.pNinc) := by
    rcases disagree with ⟨done, -⟩ | ⟨-, last⟩ <;> simp [*]
  have notComplete : ¬ (statusDone st = true ∧ s.blk.idx = s.blk.pNinc) := by
    rcases disagree with ⟨-, notLast⟩ | ⟨notDone, -⟩ <;> simp [*]
  exact (pollBody_of_sample hs hr hv).trans ((if_neg (Nat.not_lt.mpr reached)).trans
    ((if_neg notAdvance).trans (if_neg notComplete)))

end TargetReached

/-- Where the decision is a mode write, nothing of it comes before that write (43_measurement_poller.md R160). -/
theorem pollBody_of_modeWrite {m : Mode}
    (hm : (s.blk.rc.toNat + 1 < s.blk.pRep.toNat ∧ m = .repeat) ∨
      (s.blk.pRep.toNat ≤ s.blk.rc.toNat + 1 ∧ statusDone st = false ∧ s.blk.idx ≠ s.blk.pNinc ∧ m = .increment)) :
    ∃ next, pollBody (during s [] s.blk) =
      andThen (setMode m (during s (readEvents (samplePoll st rh rl ih il)) s.blk)) next := by
  rcases hm with ⟨below, rfl⟩ | ⟨reached, notDone, notLast, rfl⟩
  · exact ⟨_, pollBody_of_below hs hr hv below⟩
  · exact ⟨_, pollBody_of_advance hs hr hv reached notDone notLast⟩

end Sample

end Stages

/-! ### The end of a POLL -/

theorem exec_poll_of_go {s : State} {events : List BusEvent} {b : Block} {r : Response}
    (h : pollBody (during s [] s.blk) = .go r (during s events b)) : exec .poll s = .next (outcomeOf s events b r) := by
  show Host.Outcome.next (conclude false (pollBody (clearOutputs s))) = _
  rw [clearOutputs_eq_during, h, conclude_go_during]

theorem exec_poll_of_raised {s : State} {events : List BusEvent} {b : Block} {e : Raise}
    (h : pollBody (during s [] s.blk) = .raised e (during s events b)) (fault : raiseFaultCode e ≠ .none) :
    exec .poll s =
      .next (outcomeOf s events (faulted (raiseFaultCode e) (raiseInfo e) b) (errorResponse e .faulted)) := by
  show Host.Outcome.next (conclude false (pollBody (clearOutputs s))) = _
  rw [clearOutputs_eq_during, h, conclude_fault_during _ _ _ _ _ fault, faultEntry_false]

theorem legal_poll_iff {ctl : Ctl} {configured : Bool} : legal .poll ctl configured = true ↔ ctl = .sweeping := by
  cases ctl <;> simp [legal]

/-- The converse of `exec_effect` for POLL: the answers that are the conditions of an effect lead to that effect. -/
theorem exec_poll_of_effect {s : State} {events : List BusEvent} {b : Block} {r : Response}
    (he : Effect .poll s events b r) : exec .poll s = .next (outcomeOf s events b r) := by
  cases he with
  | illegal _ _ hl =>
    have elsewhere : s.blk.ctl ≠ .sweeping := fun hs => by rw [legal_poll_iff.mpr hs] at hl; exact nomatch hl
    show Host.Outcome.next (conclude false (pollBody (clearOutputs s))) = _
    rw [pollBody, if_pos (by simpa using elsewhere)]
    rfl
  | registerReadFailed _ _ _ _ hi | registerWriteFailed _ _ _ _ _ hi | registerChanged _ _ _ _ _ hi => exact nomatch hi
  | pollReadFailed _ done addr later hs order hr hv hf =>
    exact exec_poll_of_raised (pollBody_of_readFails hs order hr hv hf) nofun
  | pollCounted _ st hs hr hv below =>
    refine exec_poll_of_go ?_
    rw [pollBody_of_empty hs hr hv, ← hs]
    exact if_neg (Nat.not_le.mpr below)
  | pollTimedOut _ st hs hr hv reached =>
    exact exec_poll_of_raised (e := .sweepTimeout) ((pollBody_of_empty hs hr hv).trans (if_pos reached)) nofun
  | pollModeReadFailed _ st rh rl ih il m hs hr hv hm hf =>
    obtain ⟨next, decision⟩ := pollBody_of_modeWrite hs hr hv hm
    rw [setMode_during_of_readFails m hf] at decision
    exact exec_poll_of_raised decision nofun
  | pollModeWriteFailed _ st rh rl ih il v m hs hr hv hm hr5 hf =>
    obtain ⟨next, decision⟩ := pollBody_of_modeWrite hs hr hv hm
    rw [setMode_during_of_writeFails hr5 hf] at decision
    exact exec_poll_of_raised decision nofun
  | pollRepeated _ st rh rl ih il v hs hr hv below hr5 hw =>
    refine exec_poll_of_go ?_
    rw [pollBody_of_below hs hr hv below, pollRepeat, setMode_during_of_writes hr5 hw]
    rfl
  | pollAdvanced _ st rh rl ih il v hs hr hv reached notDone notLast hr5 hw =>
    refine exec_poll_of_go ?_
    rw [pollBody_of_advance hs hr hv reached notDone notLast, pollAdvance, setMode_during_of_writes hr5 hw]
    rfl
  | pollCompleted _ st rh rl ih il hs hr hv reached done last =>
    exact exec_poll_of_go (pollBody_of_complete hs hr hv reached done last)
  | pollDisagreed _ st rh rl ih il hs hr hv reached disagree =>
    exact exec_poll_of_raised (pollBody_of_disagree hs hr hv reached disagree) nofun

/-! ### What a POLL does in each case -/

/-- Settles O40: the effect of a sample below the target, whose mode write is Repeat. -/
theorem sampleBelowTheTargetRepeats : Obligations.SampleBelowTheTargetRepeats :=
  fun s st rh rl ih il v hs hr hv below hr5 hw =>
    exec_poll_of_effect (.pollRepeated s st rh rl ih il v hs hr hv below hr5 hw)

/-- Settles O41: the effect of a sample that reaches the target before the last index, whose mode write is Increment. -/
theorem completedPointAdvances : Obligations.CompletedPointAdvances :=
  fun s st rh rl ih il v hs hr hv reached notDone notLast hr5 hw =>
    exec_poll_of_effect (.pollAdvanced s st rh rl ih il v hs hr hv reached notDone notLast hr5 hw)

/-- Settles O42: the effect of a sample that reaches the target at the last index, where both sides agree. -/
theorem lastPointCompletesTheSweep : Obligations.LastPointCompletesTheSweep :=
  fun s st rh rl ih il hs hr hv reached done last =>
    exec_poll_of_effect (.pollCompleted s st rh rl ih il hs hr hv reached done last)

/-- Settles O43: the effect of the failed cross-check, in either direction. -/
theorem disagreeingCompletionFaults : Obligations.DisagreeingCompletionFaults :=
  fun s st rh rl ih il hs hr hv reached disagree =>
    exec_poll_of_effect (.pollDisagreed s st rh rl ih il hs hr hv reached disagree)

/-- Settles O38: the effect of an empty poll below the budget. -/
theorem emptyPollCountsOne : Obligations.EmptyPollCountsOne := fun s st hs hr hv below =>
  exec_poll_of_effect (.pollCounted s st hs hr hv below)

/-- Settles O39: the effect of the empty poll that reaches the budget. -/
theorem emptyPollAtTheBudgetTimesOut : Obligations.EmptyPollAtTheBudgetTimesOut := fun s st hs hr hv reached =>
  exec_poll_of_effect (.pollTimedOut s st hs hr hv reached)

/-! ### Status bits that a POLL does not look at -/

/-- `s` with the device's next answer, the status of a POLL, being `st`. -/
abbrev withStatus (s : State) (st : Byte) (rest : List BusAnswer) : State := { s with answers := .ack st :: rest }

section OtherStatus

variable {s : State} {st st' : Byte} {rest : List BusAnswer}

/-- Reads that begin with the status return it, and return the same bytes after another status. -/
theorem readsAll_withStatus {addr : Addr} {v : Byte} {later : List (Addr × Byte)}
    (h : readsAll (withStatus s st rest) ((addr, v) :: later)) :
    v = st ∧ readsAll (withStatus s st' rest) ((addr, st') :: later) := by
  refine ⟨(BusAnswer.ack.inj (h 0 _ rfl)).symm, fun j x hj => ?_⟩
  cases j with
  | zero => obtain rfl := Option.some.inj hj; rfl
  | succ j => exact h (j + 1) x hj

variable (valid : statusValid st' = statusValid st) (done : statusDone st' = statusDone st)
include valid done

/-- An effect of POLL, but for the failed cross-check, takes place after each status with the same `valid` and `done`
(43_measurement_poller.md R161). -/
theorem effect_poll_withStatus {events : List BusEvent} {b : Block} {r : Response}
    (he : Effect .poll (withStatus s st rest) events b r) (agreed : b.faultCode ≠ .unexpectedStatus) :
    ∃ events', Effect .poll (withStatus s st' rest) events' b r ∧ events'.tail = events.tail := by
  cases he with
  | illegal _ _ hl => exact ⟨_, .illegal .poll _ hl, rfl⟩
  | registerReadFailed _ _ _ _ hi | registerWriteFailed _ _ _ _ _ hi | registerChanged _ _ _ _ _ hi => exact nomatch hi
  | pollReadFailed _ read addr later hs order hr hv hf =>
    cases read with
    | nil => exact BusAnswer.noConfusion hf
    | cons x read =>
      obtain ⟨status, st₀⟩ := x
      obtain ⟨rfl, hr'⟩ := readsAll_withStatus (st' := st') hr
      obtain ⟨rfl, -⟩ := List.cons.inj order
      refine ⟨_, .pollReadFailed _ ((0x8F, st') :: read) addr later hs order hr' ?_ hf, rfl⟩
      intro status head
      obtain rfl := (Prod.mk.inj (Option.some.inj head)).2
      exact valid.trans (hv _ rfl)
  | pollCounted _ _ hs hr hv below =>
    obtain rfl := BusAnswer.ack.inj hr
    exact ⟨_, .pollCounted _ st' hs rfl (valid.trans hv) below, rfl⟩
  | pollTimedOut _ _ hs hr hv reached =>
    obtain rfl := BusAnswer.ack.inj hr
    exact ⟨_, .pollTimedOut _ st' hs rfl (valid.trans hv) reached, rfl⟩
  | pollModeReadFailed _ _ rh rl ih il m hs hr hv hm hf =>
    obtain ⟨rfl, hr'⟩ := readsAll_withStatus (st' := st') hr
    rw [← done] at hm
    exact ⟨_, .pollModeReadFailed _ st' rh rl ih il m hs hr' (valid.trans hv) hm hf, rfl⟩
  | pollModeWriteFailed _ _ rh rl ih il v m hs hr hv hm hr5 hf =>
    obtain ⟨rfl, hr'⟩ := readsAll_withStatus (st' := st') hr
    rw [← done] at hm
    exact ⟨_, .pollModeWriteFailed _ st' rh rl ih il v m hs hr' (valid.trans hv) hm hr5 hf, rfl⟩
  | pollRepeated _ _ rh rl ih il v hs hr hv below hr5 hw =>
    obtain ⟨rfl, hr'⟩ := readsAll_withStatus (st' := st') hr
    exact ⟨_, .pollRepeated _ st' rh rl ih il v hs hr' (valid.trans hv) below hr5 hw, rfl⟩
  | pollAdvanced _ _ rh rl ih il v hs hr hv reached notDone notLast hr5 hw =>
    obtain ⟨rfl, hr'⟩ := readsAll_withStatus (st' := st') hr
    exact ⟨_, .pollAdvanced _ st' rh rl ih il v hs hr' (valid.trans hv) reached (done.trans notDone) notLast hr5 hw, rfl⟩
  | pollCompleted _ _ rh rl ih il hs hr hv reached isDone last =>
    obtain ⟨rfl, hr'⟩ := readsAll_withStatus (st' := st') hr
    exact ⟨_, .pollCompleted _ st' rh rl ih il hs hr' (valid.trans hv) reached (done.trans isDone) last, rfl⟩
  | pollDisagreed => exact absurd rfl agreed

end OtherStatus

/-- Settles O46: the effect of the first POLL takes place after the other status too, so it is what the second POLL does. -/
theorem otherStatusBitsAreIgnored : Obligations.OtherStatusBitsAreIgnored := by
  intro s t t' st st' rest fixed valid done first second agreed
  have same : withStatus s st rest = s := by rw [withStatus, ← fixed]
  rw [← same] at first
  obtain ⟨events, b, r, he, rfl⟩ := effect_of_exec first
  obtain ⟨events', he', sameTail⟩ := effect_poll_withStatus valid.symm done.symm he agreed
  obtain rfl := Host.Outcome.next.inj ((exec_poll_of_effect he').symm.trans second)
  exact ⟨rfl, rfl, sameTail⟩

end Sys2Proof.Machine
end

section
/-! PROOFS of the averager family (44_averager.md): the sums and the point record that a POLL leaves are exact, since in a
state that meets the invariant nothing in them overflows (R180, R182, R183). -/

namespace Sys2Proof.Machine

/-! ### The frequency of a point -/

/-- The frequency of a point fits its 41 bits, whatever the program and the index are (44_averager.md R183). -/
theorem pointFrequency_toNat (b : Block) :
    (pointFrequency b).toNat = b.pStart.toNat + b.idx.toNat * b.pInc.toNat := by
  have start := b.pStart.isLt
  have steps : b.idx.toNat * b.pInc.toNat ≤ (2 ^ 9 - 1) * (2 ^ 32 - 1) :=
    Nat.mul_le_mul (Nat.le_sub_one_of_lt b.idx.isLt) (Nat.le_sub_one_of_lt b.pInc.isLt)
  rw [pointFrequency, BitVec.toNat_ofNat]
  exact Nat.mod_eq_of_lt (by omega)

/-! ### The sums and the count in Sweeping -/

section Sweeping

variable {s : State} (h : Inv s) (hctl : s.blk.ctl = .sweeping)
include h hctl

/-- In Sweeping a sample is added to both sums exactly: the point still has room for it (44_averager.md R180, R182). -/
theorem accumulate_sums_toInt (re im : BitVec 16) :
    (accumulate s.blk.sumRe re).toInt = s.blk.sumRe.toInt + re.toInt ∧
      (accumulate s.blk.sumIm im).toInt = s.blk.sumIm.toInt + im.toInt := by
  have room : s.blk.rc.toNat + 1 ≤ 65535 :=
    Nat.le_trans (h.countsInRange hctl).1 (Nat.le_of_lt_succ s.blk.pRep.isLt)
  exact ⟨accumulate_toInt re room h.sumsInRange.1, accumulate_toInt im room h.sumsInRange.2⟩

/-- A sample that fills its point makes an exact point record: the sums with the sample, the frequency of the index, and
as the count the repeat target, which the samples have just reached (44_averager.md R183). -/
theorem pointResponse_exact (full : s.blk.pRep.toNat ≤ s.blk.rc.toNat + 1) (answered : Ctl) (re im : BitVec 16) :
    (pointResponse answered re im s.blk).ptSumRe.toInt = s.blk.sumRe.toInt + re.toInt ∧
      (pointResponse answered re im s.blk).ptSumIm.toInt = s.blk.sumIm.toInt + im.toInt ∧
      (pointResponse answered re im s.blk).ptFreq.toNat = s.blk.pStart.toNat + s.blk.idx.toNat * s.blk.pInc.toNat ∧
      (pointResponse answered re im s.blk).ptCount.toNat = s.blk.rc.toNat + 1 := by
  obtain ⟨sumRe, sumIm⟩ := accumulate_sums_toInt h hctl re im
  exact ⟨sumRe, sumIm, pointFrequency_toNat s.blk, Nat.le_antisymm full (h.countsInRange hctl).1⟩

end Sweeping

/-- Settles O47, by the effects of a POLL: of those that report a sample one stores the sums and two emit the point. -/
theorem accumulationIsExact : Obligations.AccumulationIsExact := by
  intro s t r h hexec answered sample
  obtain ⟨events, b, r, he, rfl⟩ := effect_of_exec hexec
  obtain rfl := Option.some.inj answered
  cases he with
  | illegal | registerReadFailed | registerWriteFailed | registerChanged | pollReadFailed | pollCounted | pollTimedOut
  | pollModeReadFailed | pollModeWriteFailed | pollDisagreed => exact absurd sample Bool.false_ne_true
  | pollRepeated _ st rh rl ih il v hctl =>
    obtain ⟨sumRe, sumIm⟩ := accumulate_sums_toInt h hctl (word16 rh rl) (word16 ih il)
    exact ⟨fun _ => ⟨sumRe, sumIm, toNat_add_one_of_lt (h.countsInRange hctl).1⟩, (nomatch ·)⟩
  | pollAdvanced _ st rh rl ih il v hctl _ _ full =>
    exact ⟨(nomatch ·), fun _ => pointResponse_exact h hctl full .sweeping _ _⟩
  | pollCompleted _ st rh rl ih il hctl _ _ full =>
    exact ⟨(nomatch ·), fun _ => pointResponse_exact h hctl full .complete _ _⟩

end Sys2Proof.Machine
end

section
/-! PROOFS of the exceptions family (60_exceptions.md): the failed transaction that ends a command and what is left of the
command then (R201, R207, R210), how a command ends (R207, R208), and how a step leaves Faulted (R211, R230). -/

namespace Sys2Proof.Machine

/-! ### The information and the block of a failed transaction -/

theorem busInfo_false (addr : Addr) : busInfo false addr = addr.setWidth 16 := BitVec.zero_or

theorem busInfo_true (addr : Addr) : busInfo true addr = 0x0100 ||| addr.setWidth 16 := rfl

/-- Fault entry of CONFIGURE clears `configured` beside what every fault does (60_exceptions.md R207). -/
theorem faultEntry_true (code : FaultCode) (info : BitVec 16) (b : Block) :
    faultEntry true code info b = { faulted code info b with configured := false } := by
  simp [faultEntry, faulted]

/-- The shadow update touches the two shadows alone (10_state.md R37). -/
theorem setShadow_eq (b : Block) (addr : Addr) (shadow : Option Byte) :
    setShadow b addr shadow =
      { b with cr1Shadow := (setShadow b addr shadow).cr1Shadow, cr2Shadow := (setShadow b addr shadow).cr2Shadow } := by
  unfold setShadow
  split_ifs <;> rfl

/-- A failed write of CR1 or CR2 leaves its shadow unknown and the other as it was (10_state.md R37). -/
theorem faulted_setShadow_none {addr : Addr} (ha : addr = 0x80 ∨ addr = 0x81) (code : FaultCode) (info : BitVec 16)
    (b : Block) : faulted code info (setShadow b addr none) =
      { faulted code info b with
        cr1Shadow := if addr = 0x80 then none else b.cr1Shadow
        cr2Shadow := if addr = 0x80 then b.cr2Shadow else none } := by
  rcases ha with rfl | rfl <;> rfl

/-! ### CONFIGURE with a failed write -/

/-- Of writes in a fixed order, the answers single out the first that fails. -/
theorem firstFailedWrite_unique {s : State} {done done' later later' : List (Addr × Byte)} {x x' : Addr × Byte}
    (order : done ++ x :: later = done' ++ x' :: later') (hw : writesAll s done) (hf : writeFails s done.length x.1 x.2)
    (hw' : writesAll s done') (hf' : writeFails s done'.length x'.1 x'.2) : done = done' ∧ x = x' := by
  rcases List.append_eq_append_iff.mp order with ⟨between, rfl, rest⟩ | ⟨between, rfl, rest⟩
  · cases between with
    | nil => exact ⟨(List.append_nil done).symm, (List.cons.inj rest).1⟩
    | cons y between =>
      obtain ⟨rfl, -⟩ := List.cons.inj rest
      exact absurd hf (not_writeFails_of_writesAll hw')
  · cases between with
    | nil => exact ⟨List.append_nil done', (List.cons.inj rest).1.symm⟩
    | cons y between =>
      obtain ⟨rfl, -⟩ := List.cons.inj rest
      exact absurd hf' (not_writeFails_of_writesAll hw)

/-- Settles O20: with every check passed and a write failed, the failure at that write is the one case left. -/
theorem configureStopsAtTheFailedWrite : Obligations.ConfigureStopsAtTheFailedWrite := by
  intro s start inc clk ninc settle mult rep startCode incCode done later addr byte hctl hstart hinc hmult hrep order
    written failed
  rcases exec_configure_cases s start inc clk ninc settle mult rep hctl with
    ⟨check, _⟩ | ⟨startCode', incCode', hstart', hinc', _, _, outcome⟩
  · exact absurd check (no_failed_check hstart hinc hmult hrep)
  · obtain rfl : startCode = startCode' := Option.some_inj.mp (hstart.symm.trans hstart')
    obtain rfl : incCode = incCode' := Option.some_inj.mp (hinc.symm.trans hinc')
    rcases outcome with ⟨allWritten, _⟩ | ⟨done', x, later', order', written', failed', executed⟩
    · exact absurd failed (not_writeFails_of_writesAll (order ▸ allWritten))
    · obtain ⟨rfl, rfl⟩ := firstFailedWrite_unique (order.symm.trans order') written failed written' failed'
      rw [executed, faultEntry_true, busInfo_true]
      rfl

/-! ### A control-register command with a failed transaction -/

/-- Settles O27: a read that fails leaves the first of the command's three cases. -/
theorem failedRegisterReadFaults : Obligations.FailedRegisterReadFaults := by
  intro i s addr change hi hl hr
  rcases exec_register_cases hi hl with ⟨_, executed⟩ | ⟨v, read, _⟩ | ⟨v, read, _⟩
  · rw [executed, busInfo_false]
    rfl
  · exact nomatch read.symm.trans hr
  · exact nomatch read.symm.trans hr

/-- Settles O28: a write that fails after a read that succeeded leaves the second of the command's three cases. -/
theorem failedRegisterWriteFaults : Obligations.FailedRegisterWriteFaults := by
  intro i s addr change v hi hl hr hw
  rcases exec_register_cases hi hl with ⟨readFailed, _⟩ | ⟨v', hr', _, executed⟩ | ⟨v', hr', written, _⟩
  · exact nomatch hr.symm.trans readFailed
  · obtain rfl := reads_unique hr hr'
    rw [executed, faulted_setShadow_none (registerChange_addr hi), busInfo_true]
    rfl
  · obtain rfl := reads_unique hr hr'
    exact absurd hw written

/-! ### A POLL with a failed transaction -/

/-- Settles O44: the effect of the first of the five reads that fails. -/
theorem failedPollReadFaults : Obligations.FailedPollReadFaults := by
  intro s done addr later hs order hr hv hf
  rw [exec_poll_of_effect (.pollReadFailed s done addr later hs order hr hv hf), busInfo_false]
  rfl

/-- Settles O45: the pattern is that of Repeat or of Increment, and the effect is that of the mode write's failed read or
failed write. -/
theorem failedPollModeWriteFaults : Obligations.FailedPollModeWriteFaults := by
  intro s st rh rl ih il pattern hs hr hv decision
  obtain ⟨m, rfl, hm⟩ : ∃ m, pattern = modePattern m ∧
      ((s.blk.rc.toNat + 1 < s.blk.pRep.toNat ∧ m = .repeat) ∨
        (s.blk.pRep.toNat ≤ s.blk.rc.toNat + 1 ∧ statusDone st = false ∧ s.blk.idx ≠ s.blk.pNinc ∧ m = .increment)) := by
    rcases decision with ⟨below, rfl⟩ | ⟨reached, notDone, notLast, rfl⟩
    · exact ⟨.repeat, rfl, .inl ⟨below, rfl⟩⟩
    · exact ⟨.increment, rfl, .inr ⟨reached, notDone, notLast, rfl⟩⟩
  exact ⟨fun hf => exec_poll_of_effect (.pollModeReadFailed s st rh rl ih il m hs hr hv hm hf),
    fun v hr5 hf => exec_poll_of_effect (.pollModeWriteFailed s st rh rl ih il v m hs hr hv hm hr5 hf)⟩

/-! ### Nothing follows a failed transaction -/

/-- No transaction of the trace failed. -/
def AllSucceed (events : List BusEvent) : Prop := ∀ event ∈ events, eventFailed event = false

theorem allSucceed_nil : AllSucceed [] := List.forall_mem_nil _

theorem allSucceed_readEvents (xs : List (Addr × Byte)) : AllSucceed (readEvents xs) :=
  List.forall_mem_map.mpr fun _ _ => rfl

theorem allSucceed_writeEvents (xs : List (Addr × Byte)) : AllSucceed (writeEvents xs) :=
  List.forall_mem_map.mpr fun _ _ => rfl

theorem AllSucceed.append {first later : List BusEvent} (h : AllSucceed first) (h' : AllSucceed later) :
    AllSucceed (first ++ later) :=
  List.forall_mem_append.mpr ⟨h, h'⟩

theorem allSucceed_readModifyWrite (addr : Addr) (v w : Byte) :
    AllSucceed [.read addr (some v), .write addr w true] := by
  simp [AllSucceed, eventFailed]

/-- The two ways a command's transactions can go: all succeed, or all but the last, and then the block is in Faulted with
a bus fault on record (60_exceptions.md R201, R210). -/
inductive BusEnding (b : Block) : List BusEvent → Prop
  | succeeded {events : List BusEvent} (h : AllSucceed events) : BusEnding b events
  | failed {first : List BusEvent} (last : BusEvent) (h : AllSucceed first) (ctl : b.ctl = .faulted)
      (code : b.faultCode = .bus) : BusEnding b (first ++ [last])

/-- Every effect of a command ends its transactions in one of the two ways. -/
theorem effect_busEnding {i : Instr} {s : State} {events : List BusEvent} {b : Block} {r : Response}
    (he : Effect i s events b r) : BusEnding b events := by
  cases he with
  | illegal | encoded | notEncoded | notConfigured => exact .succeeded allSucceed_nil
  | configured => exact .succeeded (allSucceed_writeEvents _)
  | configureFailed _ _ _ _ _ _ _ _ _ _ done => exact .failed _ (allSucceed_writeEvents done) rfl rfl
  | registerReadFailed => exact .failed (first := []) _ allSucceed_nil rfl rfl
  | registerWriteFailed _ _ addr change v =>
    exact .failed (first := [.read addr (some v)]) _ (allSucceed_readEvents [(addr, v)]) rfl rfl
  | registerChanged => exact .succeeded (allSucceed_readModifyWrite _ _ _)
  | pollReadFailed _ done => exact .failed _ (allSucceed_readEvents done) rfl rfl
  | pollCounted _ st | pollTimedOut _ st => exact .succeeded (allSucceed_readEvents [(0x8F, st)])
  | pollModeReadFailed => exact .failed _ (allSucceed_readEvents _) rfl rfl
  | pollModeWriteFailed _ st rh rl ih il v m =>
    rw [← List.singleton_append, ← List.append_assoc]
    exact .failed _ ((allSucceed_readEvents _).append (allSucceed_readEvents [(0x80, v)])) rfl rfl
  | pollRepeated | pollAdvanced =>
    exact .succeeded ((allSucceed_readEvents _).append (allSucceed_readModifyWrite _ _ _))
  | pollCompleted | pollDisagreed => exact .succeeded (allSucceed_readEvents _)

/-- A failed transaction is the last one, and the block has entered Faulted with it. -/
theorem BusEnding.of_failed {b : Block} {before after : List BusEvent} {event : BusEvent}
    (h : BusEnding b (before ++ event :: after)) (failed : eventFailed event = true) :
    after = [] ∧ b.ctl = .faulted ∧ b.faultCode = .bus := by
  have notAmong : ∀ {events}, AllSucceed events → event ∉ events := fun succeed among =>
    Bool.false_ne_true ((succeed event among).symm.trans failed)
  generalize hsplit : before ++ event :: after = events at h
  cases h with
  | succeeded h => exact absurd (hsplit ▸ List.mem_append_right _ List.mem_cons_self) (notAmong h)
  | @failed first last h ctl code =>
    rcases List.eq_nil_or_concat after with rfl | ⟨inner, final, rfl⟩
    · exact ⟨rfl, ctl, code⟩
    · have both : (before ++ event :: inner) ++ [final] = first ++ [last] := by simpa using hsplit
      obtain ⟨firstEq, -⟩ := List.append_inj' both rfl
      exact absurd (firstEq ▸ List.mem_append_right _ List.mem_cons_self) (notAmong h)

/-- Settles O53: a step without transactions has no failed one, and a command ends its transactions in one of the two
ways. -/
theorem nothingFollowsAFailedTransaction : Obligations.NothingFollowsAFailedTransaction := by
  intro s t before after event hstep htrace failed
  rcases step_trace_cases hstep with empty | ⟨i, s', events, b, r, he, rfl⟩
  · simp [empty] at htrace
  · obtain rfl : events = before ++ event :: after := htrace
    exact (effect_busEnding he).of_failed failed

/-! ### The three ways a command ends -/

/-- A command answers OK; or it raises an error that rejects it, and nothing has happened (60_exceptions.md R208); or it
raises one that faults, and of the block before nothing but the shadows has changed at fault entry (R207). -/
inductive Ending (i : Instr) (s : State) : List BusEvent → Block → Response → Prop
  | ok {events : List BusEvent} {b : Block} {r : Response} (h : r.status = .ok) : Ending i s events b r
  | rejected (e : Raise) (h : raiseFaultCode e = .none) : Ending i s [] s.blk (errorResponse e s.blk.ctl)
  | faulted {events : List BusEvent} (e : Raise) (h : raiseFaultCode e ≠ .none) (cr1 cr2 : Option Byte) :
      Ending i s events
        (faultEntry (opcodeOf i == 0x02) (raiseFaultCode e) (raiseInfo e) { s.blk with cr1Shadow := cr1, cr2Shadow := cr2 })
        (errorResponse e .faulted)

/-- No control-register command is CONFIGURE. -/
theorem opcodeOf_beq_configure_of_registerChange {i : Instr} {addr : Addr} {change : Byte → Byte}
    (hi : registerChange i = some (addr, change)) : (opcodeOf i == 0x02) = false := by
  cases i with
  | configure => exact nomatch hi
  | _ => rfl

/-- A fault of a command that is not CONFIGURE is one of the three endings. -/
theorem ending_of_faulted {i : Instr} (s : State) (events : List BusEvent) (hi : (opcodeOf i == 0x02) = false) (e : Raise)
    (he : raiseFaultCode e ≠ .none) (cr1 cr2 : Option Byte) :
    Ending i s events
      (faulted (raiseFaultCode e) (raiseInfo e) { s.blk with cr1Shadow := cr1, cr2Shadow := cr2 })
      (errorResponse e .faulted) := by
  rw [← faultEntry_false, ← hi]
  exact .faulted e he cr1 cr2

/-- A failed write of a control register by a command that is not CONFIGURE is one of the three endings. -/
theorem ending_of_writeFailed {i : Instr} (s : State) (events : List BusEvent) (hi : (opcodeOf i == 0x02) = false)
    (addr : Addr) :
    Ending i s events (faulted .bus (busInfo true addr) (setShadow s.blk addr none))
      (faultResponse .ioError (busInfo true addr)) := by
  rw [setShadow_eq]
  exact ending_of_faulted s events hi (.bus true addr) nofun _ _

/-- Every effect of a command is one of the three endings. -/
theorem effect_ending {i : Instr} {s : State} {events : List BusEvent} {b : Block} {r : Response}
    (he : Effect i s events b r) : Ending i s events b r := by
  cases he with
  | illegal => exact .rejected (.illegalCommand s.blk.ctl (opcodeOf i)) rfl
  | notEncoded => exact .rejected (.frequencyOutOfRange 0) rfl
  | notConfigured start inc clk _ _ mult =>
    obtain ⟨status, info, rejected, rfl | rfl⟩ := configureRejection_eq start inc clk mult s.blk <;> rw [rejected]
    · exact .rejected (.frequencyOutOfRange info) rfl
    · exact .rejected (.configInvalid info) rfl
  | configureFailed _ _ _ _ _ _ _ _ _ _ _ _ x => exact .faulted (.bus true x.1) nofun _ _
  | registerReadFailed _ _ addr _ hi =>
    exact ending_of_faulted s _ (opcodeOf_beq_configure_of_registerChange hi) (.bus false addr) nofun _ _
  | registerWriteFailed _ _ addr _ _ hi =>
    exact ending_of_writeFailed s _ (opcodeOf_beq_configure_of_registerChange hi) addr
  | pollReadFailed _ _ addr => exact ending_of_faulted s _ rfl (.bus false addr) nofun _ _
  | pollModeReadFailed => exact ending_of_faulted s _ rfl (.bus false 0x80) nofun _ _
  | pollModeWriteFailed => exact ending_of_writeFailed s _ rfl 0x80
  | pollTimedOut => exact ending_of_faulted s _ rfl .sweepTimeout nofun _ _
  | pollDisagreed _ st => exact ending_of_faulted s _ rfl (.unexpectedStatus st) nofun _ _
  | encoded | configured | registerChanged | pollCounted | pollRepeated | pollAdvanced | pollCompleted => exact .ok rfl

/-- An error that rejects is answered with neither status of a fault (60_exceptions.md R208). -/
theorem raiseStatus_of_rejection {e : Raise} (h : raiseFaultCode e = .none) :
    raiseStatus e ≠ .ioError ∧ raiseStatus e ≠ .sweepTimeout := by
  cases e with
  | bus | unexpectedStatus | sweepTimeout => exact nomatch h
  | frequencyOutOfRange | configInvalid | illegalCommand => exact ⟨nofun, nofun⟩

/-- An error that faults is answered with one of the two statuses of a fault, which its fault code tells apart
(60_exceptions.md R200, R207). -/
theorem raiseStatus_of_fault {e : Raise} (h : raiseFaultCode e ≠ .none) :
    (raiseStatus e = .ioError ∨ raiseStatus e = .sweepTimeout) ∧
      (raiseStatus e = .sweepTimeout ↔ raiseFaultCode e = .sweepTimeout) := by
  cases e with
  | bus | unexpectedStatus => exact ⟨.inl rfl, nofun, nofun⟩
  | sweepTimeout => exact ⟨.inr rfl, fun _ => rfl, fun _ => rfl⟩
  | frequencyOutOfRange | configInvalid | illegalCommand => exact absurd rfl h

/-- Settles O56: of the three endings, the answer leaves the rejection. -/
theorem rejectionsChangeNothing : Obligations.RejectionsChangeNothing := by
  intro i s t r hexec hr rejection
  obtain ⟨events, b, r', he, rfl⟩ := effect_of_exec hexec
  obtain rfl := Option.some.inj hr
  cases effect_ending he with
  | ok ok => simp [ok] at rejection
  | rejected e h => rfl
  | faulted e h =>
    have status : raiseStatus e = .illegalCommand ∨ raiseStatus e = .frequencyOutOfRange ∨
        raiseStatus e = .configInvalid := rejection
    rcases (raiseStatus_of_fault h).1 with io | timeout
    · simp [io] at status
    · simp [timeout] at status

/-- Settles O57: of the three endings, the answer leaves the fault. -/
theorem faultsAreRecordedAndPrecise : Obligations.FaultsAreRecordedAndPrecise := by
  intro i s t r hexec hr fault
  obtain ⟨events, b, r', he, rfl⟩ := effect_of_exec hexec
  obtain rfl := Option.some.inj hr
  cases effect_ending he with
  | ok ok => simp [ok] at fault
  | rejected e h =>
    obtain ⟨notIo, notTimeout⟩ := raiseStatus_of_rejection h
    exact (fault.elim notIo notTimeout).elim
  | faulted e h => exact ⟨rfl, (raiseStatus_of_fault h).2, h, rfl⟩

/-! ### Leaving Faulted -/

/-- A STANDBY that does not end in Faulted has cleared the fault record (60_exceptions.md R211). -/
theorem exec_standby_clears_fault {s t : State} (hexec : exec .standby s = .next t) (left : t.blk.ctl ≠ .faulted) :
    t.blk.faultCode = .none ∧ t.blk.faultInfo = 0 := by
  rcases exec_register_cases (i := .standby) (s := s) rfl rfl with
    ⟨_, executed⟩ | ⟨_, _, _, executed⟩ | ⟨_, _, _, executed⟩ <;>
    obtain rfl := Host.Outcome.next.inj (executed.symm.trans hexec)
  · exact absurd rfl left
  · exact absurd rfl left
  · exact ⟨rfl, rfl⟩

/-- From Faulted no command but STANDBY leads elsewhere: every other row of the transition table starts in another state or
ends in Faulted (42_sweep_controller.md R140). -/
theorem eq_standby_of_leaves_faulted {i : Instr} {s t : State} (hs : s.blk.ctl = .faulted) (hexec : exec i s = .next t)
    (left : t.blk.ctl ≠ .faulted) : i = .standby ∧ t.blk.ctl = .standby := by
  have changed : t.blk.ctl ≠ s.blk.ctl := hs ▸ left
  rcases controllerChangesByTheTransitionTable i s t hexec changed with
    standby | ⟨_, notFaulted, _⟩ | ⟨_, inStandby, _⟩ | ⟨_, inInitialized, _⟩ | ⟨_, inSweeping, _⟩ | ⟨toFaulted, _⟩
  · exact standby
  · exact absurd hs notFaulted
  · exact nomatch hs.symm.trans inStandby
  · exact nomatch hs.symm.trans inInitialized
  · exact nomatch hs.symm.trans inSweeping
  · exact absurd toFaulted left

/-- Settles O35: of the four things a step can do, two keep the controller state, one is the reset, and of the commands
STANDBY alone leaves Faulted. -/
theorem onlyStandbyAndResetLeaveFaulted : Obligations.OnlyStandbyAndResetLeaveFaulted := by
  intro s t hs hstep left
  rcases step_cases s with
    ⟨_, idle⟩ | ⟨rest, hin, reset⟩ | ⟨f, rest, i, hin, decoded, command⟩ | ⟨f, rest, op, _, _, reserved⟩
  · obtain rfl : idleStep s = t := Host.Outcome.next.inj (idle.symm.trans hstep)
    exact absurd hs left
  · obtain rfl : resetBlock { s with inputs := rest } = t := Host.Outcome.next.inj (reset.symm.trans hstep)
    exact .inl ⟨rest, hin, rfl⟩
  · have hexec : exec i { s with inputs := rest } = .next t := command.symm.trans hstep
    obtain ⟨rfl, inStandby⟩ := eq_standby_of_leaves_faulted (s := { s with inputs := rest }) hs hexec left
    exact .inr ⟨f, rest, hin, decoded, inStandby, exec_standby_clears_fault hexec left⟩
  · rw [reserved, execReserved, runCommand_eq, conclude_raiseIllegal] at hstep
    obtain rfl := Host.Outcome.next.inj hstep
    exact absurd hs left

end Sys2Proof.Machine
end

section
/-! PROOFS of the reset and hazards family (70_reset_and_hazards.md): the reset step (R230, R231), and the range, gain and
clock bits while the device is initialised or converting (R234). -/

namespace Sys2Proof.Machine

/-! ### The reset -/

/-- A step whose next input is a reset is the reset step. -/
theorem step_of_reset {s : State} {rest : List HostInput} (h : s.inputs = .reset :: rest) :
    step s = .next (resetBlock { s with inputs := rest }) := by
  simp only [step, takeInput, h]

/-- Settles O10: the reset step puts in the block that the machine starts with. -/
theorem resetSetsEveryField : Obligations.ResetSetsEveryField := by
  rintro s rest b rfl
  exact ⟨State_reset_blk, step_of_reset⟩

/-! ### The bit-field commands outside Idle and Standby -/

/-- SET_RANGE, SET_GAIN or SET_CLOCK_SOURCE: the commands that change the bits R234 speaks of. -/
def IsFieldCommand (i : Instr) : Prop :=
  (∃ c, i = .setRange c) ∨ (∃ c, i = .setGain c) ∨ (∃ c, i = .setClockSource c)

/-- The bit-field commands are legal in Idle and in Standby alone (42_sweep_controller.md R141). -/
theorem IsFieldCommand.legal_iff {i : Instr} (hi : IsFieldCommand i) {ctl : Ctl} {configured : Bool} :
    legal i ctl configured = true ↔ ctl = .idle ∨ ctl = .standby := by
  rcases hi with ⟨_, rfl⟩ | ⟨_, rfl⟩ | ⟨_, rfl⟩ <;> cases ctl <;> simp [legal]

/-- Outside Idle and Standby a bit-field command is answered IllegalCommand and has no effect (70_reset_and_hazards.md
R234). -/
theorem IsFieldCommand.rejected {i : Instr} (hi : IsFieldCommand i) {s t : State} (notIdle : s.blk.ctl ≠ .idle)
    (notStandby : s.blk.ctl ≠ .standby) (hexec : exec i s = .next t) :
    ∃ info, t = { s with trace := [], response := some (rejection .illegalCommand info s.blk) } := by
  have illegal : legal i s.blk.ctl s.blk.configured = false :=
    Bool.eq_false_iff.mpr fun isLegal => (hi.legal_iff.mp isLegal).elim notIdle notStandby
  have executed := (legalityTableDecidesIllegalCommand i s).1 illegal
  exact ⟨_, Host.Outcome.next.inj (hexec.symm.trans executed)⟩

/-! ### The writes outside Idle and Standby -/

/-- A control-register command that is no bit-field command is a mode-transition command, and that changes CR1
(42_sweep_controller.md R142 to R145). -/
theorem registerChange_addr_of_not_field {i : Instr} {addr : Addr} {change : Byte → Byte}
    (hi : registerChange i = some (addr, change)) (notField : ¬ IsFieldCommand i) : addr = 0x80 := by
  cases i with
  | setClockSource src => exact absurd (.inr (.inr ⟨src, rfl⟩)) notField
  | setRange | setGain | standby | powerDown | init | start => cases hi; rfl
  | encode | configure | poll => exact nomatch hi

/-- Outside Idle and Standby CONFIGURE is illegal, so a command that is no bit-field command writes CR1 or nothing. -/
theorem effect_write_addr {i : Instr} {s : State} {events : List BusEvent} {b : Block} {r : Response} {addr : Addr}
    {w : Byte} {ok : Bool} (he : Effect i s events b r) (notIdle : s.blk.ctl ≠ .idle) (notStandby : s.blk.ctl ≠ .standby)
    (notField : ¬ IsFieldCommand i) (written : .write addr w ok ∈ events) : addr = 0x80 := by
  cases he with
  | illegal | encoded | notEncoded | notConfigured => exact nomatch written
  | configured _ _ _ _ _ _ _ _ _ _ setup | configureFailed _ _ _ _ _ _ _ _ _ _ _ _ _ setup =>
    exact (setup.elim notIdle notStandby).elim
  | registerWriteFailed _ _ _ _ _ hi | registerChanged _ _ _ _ _ hi =>
    have changed := registerChange_addr_of_not_field hi notField
    simp only [List.mem_cons, reduceCtorEq, BusEvent.write.injEq, List.not_mem_nil, or_false, false_or] at written
    exact written.1.trans changed
  | registerReadFailed | pollCounted | pollTimedOut => simp at written
  | pollReadFailed | pollModeReadFailed | pollCompleted | pollDisagreed => simp [readEvents] at written
  | pollModeWriteFailed | pollRepeated | pollAdvanced =>
    simp only [readEvents, List.mem_append, List.mem_map, List.mem_cons, reduceCtorEq, and_false, exists_false,
      BusEvent.write.injEq, List.not_mem_nil, or_false, false_or] at written
    exact written.1

/-- Settles O37: outside Idle and Standby the bit-field commands are rejected, and what another command writes is a mode
write of CR1, which keeps the low three bits of the byte read just before. -/
theorem rangeGainAndClockAreFixedAfterInit : Obligations.RangeGainAndClockAreFixedAfterInit := by
  intro i s t notIdle notStandby hexec
  refine ⟨fun hi => IsFieldCommand.rejected hi notIdle notStandby hexec, fun before after addr w ok htrace => ?_⟩
  have notField : ¬ IsFieldCommand i := fun hi => by
    obtain ⟨_, rfl⟩ := hi.rejected notIdle notStandby hexec
    simp at htrace
  obtain ⟨events, b, r, he, rfl⟩ := effect_of_exec hexec
  obtain rfl : events = before ++ .write addr w ok :: after := htrace
  obtain rfl := effect_write_addr he notIdle notStandby notField (List.mem_append_right _ List.mem_cons_self)
  obtain ⟨earlier, v, rfl⟩ := (effect_traceShape he).write_control_follows_read (.inl rfl)
  have writesBack : WritesBack i 0x80 v w := effect_writesBack he (List.append_assoc ..)
  obtain ⟨m, rfl, _⟩ := writesBack.mode_of_cr1 (fun code hi => notField (.inl ⟨code, hi⟩))
    fun code hi => notField (.inr (.inl ⟨code, hi⟩))
  exact ⟨rfl, v, earlier, rfl, modeByte_and_low m v⟩

end Sys2Proof.Machine
end
